-- ==== Sys2Proof/Word.lean ====
section
/-! DEFINITION. Words of the block and the two complement primitives of 00_scope.md R9. Every value is unsigned (R8). -/

namespace Sys2Proof

/-- A 32-bit register word or pulse-pair word (20_memory.md R61, 30_encoding.md R87). -/
abbrev Word := BitVec 32

/-- A byte of a frame or of the RX byte buffer. -/
abbrev Byte := BitVec 8

/-- A duration in ticks: DUR_W = 15 bits, unsigned (00_scope.md R5). -/
abbrev Dur := BitVec 15

/-- A register word address WADDR[5:0] (30_encoding.md R81). -/
abbrev WAddr := BitVec 6

/-- `not8(v)` = 0xFF - v (00_scope.md R9). -/
def not8 (v : Byte) : Byte := ~~~v

/-- `not32(v)` = 0xFFFFFFFF - v (00_scope.md R9). -/
def not32 (v : Word) : Word := ~~~v

end Sys2Proof
end

