-- ==== Sys2Proof/Config.lean ====
section
/-! DEFINITION. The implementation parameters of 00_scope.md R5: the fixed ones as numbers, the two OPEN ones as
constants without a body, so that no proof can rest on a value of theirs. -/

namespace Sys2Proof.Config

/-- RX_BUF_BYTES: bytes the RX byte buffer stores (R5). -/
def rxBufBytes : Nat := 32

/-- SLOTS_PER_FRAME: 1 header, 48 bits, 1 stop (R5). -/
def slotsPerFrame : Nat := 50

/-- The slot of a frame that carries the Stop pair, and the last one (10_state.md R48). -/
def stopSlot : Nat := slotsPerFrame - 1

/-- BYTES_PER_FRAME: A, A', B, B', C, C' (R5). -/
def bytesPerFrame : Nat := 6

/-- NFRAMES_MAX: REPEAT 3 plus the trailer (R5). -/
def nframesMax : Nat := 4

/-- The largest value of RX_COUNT.BYTE_COUNT, where it saturates (COUNT_W = 16, R5). -/
def countMax : Nat := 0xFFFF

/-- REG_WORDS: 32-bit words in the host address space (R5). -/
def regWords : Nat := 64

/-- IRC_BASE, OPEN: byte base address of the block in the host's address map (R5). No rule of an operation reads it. -/
opaque ircBase : Nat

/-- TICK, OPEN: the real time of one tick in seconds (R5, 92_eei_decisions.md D34). No rule reads it. -/
opaque tick : Rat

end Sys2Proof.Config
end

