-- ==== Sys2Proof/Syntax.lean ====
section
/-! DEFINITION. The operations of the block (30_encoding.md R92): one constructor per row of spec/opcode_table.json.
An operation is an event on one of the three input interfaces. Bits the spec calls ignored are kept as operands, so
that no bit of an encoding is lost; no meaning reads them (assumption log 8). -/

namespace Sys2Proof

/-- The polarity of a pulse: bit 1 is Mark, bit 0 is Space (30_encoding.md R87). -/
inductive Polarity where
  | space
  | mark
deriving DecidableEq, Repr

/-- A pulse pair, the content of a pulse-pair word: two pulses, each a polarity and a duration (30_encoding.md R87). -/
structure PulsePair where
  /-- D0 [14:0], duration of the first pulse. -/
  d0 : Dur
  /-- L0 [15], polarity of the first pulse. -/
  l0 : Polarity
  /-- D1 [30:16], duration of the second pulse. -/
  d1 : Dur
  /-- L1 [31], polarity of the second pulse. -/
  l1 : Polarity
deriving DecidableEq, Repr

/-- The input interfaces that carry operation words (30_encoding.md R80). -/
inductive Port where
  | rx
  | resp
  | bus
deriving DecidableEq, Repr

/-- A word on an input interface, at that interface's fixed width (30_encoding.md R81, R83, R85, R96). -/
inductive PortWord where
  | rx (w : BitVec 34)
  | resp (w : BitVec 1)
  | bus (w : BitVec 39)
deriving DecidableEq, Repr

/-- Why a number is no word of an interface. -/
inductive DecodeError where
  /-- It does not fit the 34 bits of an RX word (30_encoding.md R96). -/
  | rxWordTooWide
  /-- It does not fit the 1 bit of a TX response word. -/
  | respWordTooWide
  /-- It does not fit the 39 bits of a bus word. -/
  | busWordTooWide
deriving DecidableEq, Repr

inductive Instr where
  /-- RX_PAIR: push one pulse pair (41_assembler.md R137). -/
  | rxPair (p : PulsePair)
  /-- RX_END: close the capture and decode it (R138); DATA is ignored. -/
  | rxEnd (data : Word)
  /-- RX_NODATA: the capture timed out (R139); DATA is ignored. -/
  | rxNodata (data : Word)
  /-- RX_RSVD: the reserved RX op 3 (R141); DATA is ignored. -/
  | rxRsvd (data : Word)
  /-- TX_DONE: response 0 (43_builder.md R194). -/
  | txDone
  /-- TX_FAIL: response 1 (R195). -/
  | txFail
  /-- CMD_NOP (R193); WDATA[31:4] is ignored. -/
  | cmdNop (ignored : BitVec 28)
  /-- CMD_TX_START (R190); WDATA[7:4] is ignored. -/
  | cmdTxStart (c b a : Byte) (ignored : BitVec 4)
  /-- CMD_ILLEGAL (R192): OP 2 to 15; WDATA[31:4] is ignored. -/
  | cmdIllegal (ignored : BitVec 28) (op : BitVec 4)
  /-- WR_CFG (44_host_bus.md R212). -/
  | wrCfg (v : Word)
  /-- WR_VARIANT (R213). -/
  | wrVariant (v : Word)
  /-- WR_HDR_WIN (R214). -/
  | wrHdrWin (v : Word)
  /-- WR_B0_WIN (R215). -/
  | wrB0Win (v : Word)
  /-- WR_B1_WIN (R216). -/
  | wrB1Win (v : Word)
  /-- WR_STOP_WIN (R217). -/
  | wrStopWin (v : Word)
  /-- WR_TX_HDR (R218). -/
  | wrTxHdr (v : Word)
  /-- WR_TX_B0 (R219). -/
  | wrTxB0 (v : Word)
  /-- WR_TX_B1 (R220). -/
  | wrTxB1 (v : Word)
  /-- WR_TX_STOP (R221). -/
  | wrTxStop (v : Word)
  /-- WR_TX_TRL0 (R222). -/
  | wrTxTrl0 (v : Word)
  /-- WR_TX_TRL1 (R223). -/
  | wrTxTrl1 (v : Word)
  /-- WR_ERR (R224). -/
  | wrErr (v : Word)
  /-- WR_INT_RAW (R225). -/
  | wrIntRaw (v : Word)
  /-- WR_INT_ENA (R226). -/
  | wrIntEna (v : Word)
  /-- WR_IGNORED (R211): WADDR 13 or 17 to 63; WDATA is ignored. -/
  | wrIgnored (waddr : WAddr) (data : Word)
  /-- BUS_READ (R210); WDATA is ignored. -/
  | busRead (waddr : WAddr) (data : Word)
deriving DecidableEq, Repr

end Sys2Proof
end

