-- ==== Sys2Proof/WellFormed.lean ====
section
/-! DEFINITION. Which terms of `Instr` stand for a word of an interface: the operand ranges of 30_encoding.md R92. -/

namespace Sys2Proof

/-- The read-only and reserved words that WR_IGNORED covers: 13 and 17 to 63 (44_host_bus.md R211). -/
def ignoredWaddr (a : WAddr) : Bool := a == 13 || decide (17 ≤ a.toNat)

/-- A well-formed instruction. Every operand is fixed in width by its type; two forms restrict a range. -/
def Instr.wellFormed (i : Instr) : Bool :=
  match i with
  | .cmdIllegal _ op => decide (2 ≤ op.toNat)
  | .wrIgnored a _ => ignoredWaddr a
  | .rxPair _ | .rxEnd _ | .rxNodata _ | .rxRsvd _ | .txDone | .txFail | .cmdNop _ | .cmdTxStart _ _ _ _ | .wrCfg _
  | .wrVariant _ | .wrHdrWin _ | .wrB0Win _ | .wrB1Win _ | .wrStopWin _ | .wrTxHdr _ | .wrTxB0 _ | .wrTxB1 _
  | .wrTxStop _ | .wrTxTrl0 _ | .wrTxTrl1 _ | .wrErr _ | .wrIntRaw _ | .wrIntEna _ | .busRead _ _ => true

end Sys2Proof
end

