-- ==== Sys2Proof/Decode.lean ====
section
/-! DEFINITION. The decoder of the three interfaces' words, the encoder written from the same tables, the opcode table
itself, and the host's view of a table row's word (30_encoding.md R81 to R99). -/

namespace Sys2Proof

/-! ## Pulse-pair words (30_encoding.md R87, R88) -/

/-- Polarity bit 1 is Mark, 0 is Space. -/
def polarityOfBit (b : Bool) : Polarity := if b then .mark else .space

/-- The bit of a polarity. -/
def bitOfPolarity : Polarity → BitVec 1
  | .mark => 1
  | .space => 0

/-- The fields of a pulse-pair word: `l0 = w[15]`, `d0 = w[14:0]`, `l1 = w[31]`, `d1 = w[30:16]` (R88). -/
def pairOfWord (w : Word) : PulsePair :=
  { d0 := w.extractLsb' 0 15
    l0 := polarityOfBit (w.getLsbD 15)
    d1 := w.extractLsb' 16 15
    l1 := polarityOfBit (w.getLsbD 31) }

/-- The word {L1, D1, L0, D0} of a pulse pair (R87, R97). -/
def wordOfPair (p : PulsePair) : Word :=
  bitOfPolarity p.l1 ++ p.d1 ++ bitOfPolarity p.l0 ++ p.d0

/-! ## Decoding -/

/-- An RX word {OP[33:32], DATA[31:0]} (R83). -/
def decodeRx (w : BitVec 34) : Instr :=
  let data : Word := w.extractLsb' 0 32
  match (w.extractLsb' 32 2).toNat with
  | 0 => .rxPair (pairOfWord data)
  | 1 => .rxEnd data
  | 2 => .rxNodata data
  | _ => .rxRsvd data

/-- A TX response word: 0 is DONE, 1 is FAIL (R85). -/
def decodeResp (w : BitVec 1) : Instr := if w = 0 then .txDone else .txFail

/-- A CMD write, dispatched on WDATA[3:0] (44_host_bus.md R227; operands 30_encoding.md R89). -/
def decodeCmd (v : Word) : Instr :=
  match (v.extractLsb' 0 4).toNat with
  | 0 => .cmdNop (v.extractLsb' 4 28)
  | 1 => .cmdTxStart (v.extractLsb' 24 8) (v.extractLsb' 16 8) (v.extractLsb' 8 8) (v.extractLsb' 4 4)
  | _ => .cmdIllegal (v.extractLsb' 4 28) (v.extractLsb' 0 4)

/-- A bus write to WADDR `a`: the rows of R92 with WRITE = 1, by address. -/
def decodeWrite (a : WAddr) (v : Word) : Instr :=
  match a.toNat with
  | 0 => .wrCfg v
  | 1 => .wrVariant v
  | 2 => .wrHdrWin v
  | 3 => .wrB0Win v
  | 4 => .wrB1Win v
  | 5 => .wrStopWin v
  | 6 => .wrTxHdr v
  | 7 => .wrTxB0 v
  | 8 => .wrTxB1 v
  | 9 => .wrTxStop v
  | 10 => .wrTxTrl0 v
  | 11 => .wrTxTrl1 v
  | 12 => decodeCmd v
  | 14 => .wrErr v
  | 15 => .wrIntRaw v
  | 16 => .wrIntEna v
  | _ => .wrIgnored a v

/-- A bus word {WRITE[38], WADDR[37:32], WDATA[31:0]} (R81). -/
def decodeBus (w : BitVec 39) : Instr :=
  let a : WAddr := w.extractLsb' 32 6
  let v : Word := w.extractLsb' 0 32
  if w.getLsbD 38 then decodeWrite a v else .busRead a v

/-- The operation an interface's word selects. Total: every word of every interface selects exactly one (R93). -/
def decode : PortWord → Instr
  | .rx w => decodeRx w
  | .resp w => decodeResp w
  | .bus w => decodeBus w

/-- The word of an interface whose bits are `n`; a number wider than the interface is rejected by name (R96). -/
def portWordOfNat (p : Port) (n : Nat) : Except DecodeError PortWord :=
  match p with
  | .rx => if n < 2 ^ 34 then .ok (.rx (BitVec.ofNat 34 n)) else .error .rxWordTooWide
  | .resp => if n < 2 ^ 1 then .ok (.resp (BitVec.ofNat 1 n)) else .error .respWordTooWide
  | .bus => if n < 2 ^ 39 then .ok (.bus (BitVec.ofNat 39 n)) else .error .busWordTooWide

/-- Decoding of any number on any interface: an instruction, or a rejection by name. -/
def decodeBits (p : Port) (n : Nat) : Except DecodeError Instr :=
  match portWordOfNat p n with
  | .ok w => .ok (decode w)
  | .error e => .error e

/-! ## Encoding -/

/-- The RX word {OP, DATA} (R83). -/
def rxWord (op : BitVec 2) (data : Word) : PortWord := .rx (op ++ data)

/-- The bus word {1, WADDR, WDATA} of a host write (R81, R97). -/
def writeWord (a : WAddr) (v : Word) : PortWord := .bus ((1 : BitVec 1) ++ a ++ v)

/-- The WADDR of CMD (10_state.md R35). -/
def cmdWaddr : WAddr := 12

/-- The word of an instruction, by the encodings of R92. -/
def encode : Instr → PortWord
  | .rxPair p => rxWord 0 (wordOfPair p)
  | .rxEnd d => rxWord 1 d
  | .rxNodata d => rxWord 2 d
  | .rxRsvd d => rxWord 3 d
  | .txDone => .resp 0
  | .txFail => .resp 1
  | .cmdNop ign => writeWord cmdWaddr (ign ++ (0 : BitVec 4))
  | .cmdTxStart c b a ign => writeWord cmdWaddr (c ++ b ++ a ++ ign ++ (1 : BitVec 4))
  | .cmdIllegal ign op => writeWord cmdWaddr (ign ++ op)
  | .wrCfg v => writeWord 0 v
  | .wrVariant v => writeWord 1 v
  | .wrHdrWin v => writeWord 2 v
  | .wrB0Win v => writeWord 3 v
  | .wrB1Win v => writeWord 4 v
  | .wrStopWin v => writeWord 5 v
  | .wrTxHdr v => writeWord 6 v
  | .wrTxB0 v => writeWord 7 v
  | .wrTxB1 v => writeWord 8 v
  | .wrTxStop v => writeWord 9 v
  | .wrTxTrl0 v => writeWord 10 v
  | .wrTxTrl1 v => writeWord 11 v
  | .wrErr v => writeWord 14 v
  | .wrIntRaw v => writeWord 15 v
  | .wrIntEna v => writeWord 16 v
  | .wrIgnored a v => writeWord a v
  | .busRead a v => .bus ((0 : BitVec 1) ++ a ++ v)

/-! ## The opcode table (30_encoding.md R92, R93) -/

/-- The mnemonic of an instruction, as spec/opcode_table.json spells it. -/
def Instr.mnemonic : Instr → String
  | .rxPair _ => "RX_PAIR"
  | .rxEnd _ => "RX_END"
  | .rxNodata _ => "RX_NODATA"
  | .rxRsvd _ => "RX_RSVD"
  | .txDone => "TX_DONE"
  | .txFail => "TX_FAIL"
  | .cmdNop _ => "CMD_NOP"
  | .cmdTxStart _ _ _ _ => "CMD_TX_START"
  | .cmdIllegal _ _ => "CMD_ILLEGAL"
  | .wrCfg _ => "WR_CFG"
  | .wrVariant _ => "WR_VARIANT"
  | .wrHdrWin _ => "WR_HDR_WIN"
  | .wrB0Win _ => "WR_B0_WIN"
  | .wrB1Win _ => "WR_B1_WIN"
  | .wrStopWin _ => "WR_STOP_WIN"
  | .wrTxHdr _ => "WR_TX_HDR"
  | .wrTxB0 _ => "WR_TX_B0"
  | .wrTxB1 _ => "WR_TX_B1"
  | .wrTxStop _ => "WR_TX_STOP"
  | .wrTxTrl0 _ => "WR_TX_TRL0"
  | .wrTxTrl1 _ => "WR_TX_TRL1"
  | .wrErr _ => "WR_ERR"
  | .wrIntRaw _ => "WR_INT_RAW"
  | .wrIntEna _ => "WR_INT_ENA"
  | .wrIgnored _ _ => "WR_IGNORED"
  | .busRead _ _ => "BUS_READ"

/-- A row of the opcode table: on its port, it matches a word when `word & mask = pattern` (R93). -/
structure OpcodeRow where
  mnemonic : String
  port : Port
  pattern : BitVec 39
  mask : BitVec 39
deriving DecidableEq, Repr

/-- The rows of spec/opcode_table.json in its order. Masks and patterns are transcribed from it, not computed. -/
def opcodeTable : List OpcodeRow :=
  [ ⟨"RX_PAIR", .rx, 0x0, 0x300000000⟩,
    ⟨"RX_END", .rx, 0x100000000, 0x300000000⟩,
    ⟨"RX_NODATA", .rx, 0x200000000, 0x300000000⟩,
    ⟨"RX_RSVD", .rx, 0x300000000, 0x300000000⟩,
    ⟨"TX_DONE", .resp, 0x0, 0x1⟩,
    ⟨"TX_FAIL", .resp, 0x1, 0x1⟩,
    ⟨"CMD_NOP", .bus, 0x4C00000000, 0x7F0000000F⟩,
    ⟨"CMD_TX_START", .bus, 0x4C00000001, 0x7F0000000F⟩,
    ⟨"CMD_ILLEGAL", .bus, 0x4C00000000, 0x7F00000000⟩ ] ++
  [ ⟨"WR_CFG", .bus, 0x4000000000, 0x7F00000000⟩,
    ⟨"WR_VARIANT", .bus, 0x4100000000, 0x7F00000000⟩,
    ⟨"WR_HDR_WIN", .bus, 0x4200000000, 0x7F00000000⟩,
    ⟨"WR_B0_WIN", .bus, 0x4300000000, 0x7F00000000⟩,
    ⟨"WR_B1_WIN", .bus, 0x4400000000, 0x7F00000000⟩,
    ⟨"WR_STOP_WIN", .bus, 0x4500000000, 0x7F00000000⟩,
    ⟨"WR_TX_HDR", .bus, 0x4600000000, 0x7F00000000⟩,
    ⟨"WR_TX_B0", .bus, 0x4700000000, 0x7F00000000⟩,
    ⟨"WR_TX_B1", .bus, 0x4800000000, 0x7F00000000⟩,
    ⟨"WR_TX_STOP", .bus, 0x4900000000, 0x7F00000000⟩,
    ⟨"WR_TX_TRL0", .bus, 0x4A00000000, 0x7F00000000⟩,
    ⟨"WR_TX_TRL1", .bus, 0x4B00000000, 0x7F00000000⟩ ] ++
  [ ⟨"WR_ERR", .bus, 0x4E00000000, 0x7F00000000⟩,
    ⟨"WR_INT_RAW", .bus, 0x4F00000000, 0x7F00000000⟩,
    ⟨"WR_INT_ENA", .bus, 0x5000000000, 0x7F00000000⟩,
    ⟨"WR_IGNORED", .bus, 0x4000000000, 0x4000000000⟩,
    ⟨"BUS_READ", .bus, 0x0, 0x4000000000⟩ ]

/-- The interface a word is on. -/
def PortWord.port : PortWord → Port
  | .rx _ => .rx
  | .resp _ => .resp
  | .bus _ => .bus

/-- The bits of a word, as the table numbers them, padded with zeros to the widest interface. -/
def PortWord.bits : PortWord → BitVec 39
  | .rx w => w.setWidth 39
  | .resp w => w.setWidth 39
  | .bus w => w

/-- Whether a row matches a word of its interface (R93). -/
def rowMatches (w : PortWord) (r : OpcodeRow) : Bool :=
  r.port == w.port && (w.bits &&& r.mask) == r.pattern

/-- The first row of the table that matches a word: the selection rule of R93. -/
def firstRow (w : PortWord) : Option OpcodeRow := opcodeTable.find? (rowMatches w)

/-! ## The word of a table row as the host numbers it -/

/-- The interface word that the host's `nbits` and `w` stand for. The table's rows name no interface by bits, and an RX
word (34 bits) and a bus word (39 bits) are both five bytes long, so the same number can be either: a number of five
bytes is a bus word where it needs more than 34 bits or is 0, and an RX word otherwise. DESIGN CHOICE, safe: assumption
log 6. At an interface's exact width there is no doubt. -/
def tableWord (nbits w : Nat) : Option PortWord :=
  if nbits ≤ 8 then (portWordOfNat .resp w).toOption
  else if nbits = 34 then (portWordOfNat .rx w).toOption
  else if nbits = 39 ∨ w = 0 ∨ 2 ^ 34 ≤ w then (portWordOfNat .bus w).toOption
  else (portWordOfNat .rx w).toOption

/-- The instruction the decoder reads from the word `w` of a table row of `nbits` bits. -/
def decodeTableWord (nbits w : Nat) : Option Instr :=
  match tableWord nbits w with
  | some pw => some (decode pw)
  | none => none

/-! ## Host byte addresses (20_memory.md R62, R68) -/

/-- The WADDR a 32-bit host access at a byte address reaches: `(addr - IRC_BASE) / 4` for an aligned address in the
256-byte window. Any other access does not reach the block, and the model has no step for it (R62; assumption log 11). -/
def hostWaddr (addr : Nat) : Option WAddr :=
  if Config.ircBase ≤ addr ∧ addr < Config.ircBase + 4 * Config.regWords ∧ (addr - Config.ircBase) % 4 = 0 then
    some (BitVec.ofNat 6 ((addr - Config.ircBase) / 4))
  else none

/-- The byte address of word `a`: IRC_BASE + 4a (10_state.md R22). -/
def hostByteAddress (a : WAddr) : Nat := Config.ircBase + 4 * a.toNat

end Sys2Proof
end

