-- ==== Sys2Proof/Machine/State.lean ====
section
/-! DEFINITION. What the machine holds: every element of 10_state.md R21, the read-data output of the host bus, and the
pending input of the three interfaces; the reasons a step can stop; and the state after reset
(70_reset_and_hazards.md R260). All of it is plain data. -/

namespace Sys2Proof.Machine

/-- A symbol, as STATUS.LAST_SYM encodes it: NONE (no pair yet in this capture), or the class of a pulse pair
(30_encoding.md R90). The codes 6 and 7 are never produced. -/
inductive Symbol where
  | noPair
  | header
  | bit0
  | bit1
  | stop
  | noise
deriving DecidableEq, Repr

/-- The error causes, in the order of their ERR bits 0 to 5 (60_exceptions.md R232). -/
inductive ErrCause where
  | illCmd
  | txBusyStart
  | txFail
  | rxOvf
  | rxIllOp
  | txSpurious
deriving DecidableEq, Repr

/-- The interrupt sources, in the order of their INT_RAW bits 0 to 2 (60_exceptions.md R234). -/
inductive IntSource where
  | rxDone
  | txDone
  | err
deriving DecidableEq, Repr

/-- RESULT.UNREC_REASON (10_state.md R40); the code 3 is never produced. -/
inductive UnrecReason where
  | other
  | short
  | complement
deriving DecidableEq, Repr

/-- RESULT.FAN (10_state.md R40); the codes 5 to 7 are never produced. -/
inductive Fan where
  | auto
  | low
  | middle
  | high
  | fixed
deriving DecidableEq, Repr

/-- RESULT.MODE (10_state.md R40). -/
inductive Mode where
  | auto
  | cool
  | dryFan
  | heat
deriving DecidableEq, Repr

/-- The fields of a SETTINGS result and the raw codes they come from (10_state.md R40, R41). -/
structure Settings where
  fan : Fan
  fanDefaulted : Bool
  mode : Mode
  tempValid : Bool
  tempSentinel : Bool
  tempC : Byte
  fanCode : BitVec 3
  modeCode : BitVec 2
  tempCode : BitVec 4
deriving DecidableEq, Repr

/-- The decode result of a capture (00_scope.md R11 "Command", with NO_FRAME of 10_state.md R40). -/
inductive Command where
  | noFrame
  | powerOff
  | swingAuto
  | swingManual
  | swingLeftRight
  | unrecognized (reason : UnrecReason)
  | settings (x : Settings)
deriving DecidableEq, Repr

/-- Byte memory: (address, byte) pairs at strictly rising addresses, none of them holding what an unlisted address
reads as. The only byte memory of the block is the RX byte buffer, addresses 0 to 31, and an unlisted byte of it reads 0,
the value of 70_reset_and_hazards.md R260. The operations are in Machine/Ops.lean. -/
abbrev Memory := List Host.Cell

/-- The assembler's and the classifier's state (10_state.md R46, R47). -/
structure RxState where
  /-- rx.open: a capture is open. -/
  isOpen : Bool
  /-- rx.shift: the bits of the partial byte, right-aligned. -/
  shift : Byte
  /-- rx.nbits: how many bits it holds, 0 to 7. -/
  nbits : BitVec 3
  /-- rx.count: bytes of the capture, saturating. -/
  count : BitVec 16
  /-- RxBuf[0..31]. -/
  buf : Memory
  /-- rx.last_sym: class of the last pair of the capture. -/
  lastSym : Symbol
deriving DecidableEq, Repr

/-- A pair of emitted durations (10_state.md R49). -/
structure DurPair where
  mark : Dur
  space : Dur
deriving DecidableEq, Repr

/-- The triple of the last accepted TX_START (10_state.md R44). -/
structure Latch where
  a : Byte
  b : Byte
  c : Byte
deriving DecidableEq, Repr

/-- The TX snapshot, written only by an accepted TX_START (10_state.md R49). -/
structure Snapshot where
  hdr : DurPair
  b0 : DurPair
  b1 : DurPair
  stop : DurPair
  /-- tx.snap.repeat, copied from CFG.REPEAT. -/
  reps : BitVec 2
  trlEn : Bool
  trl : Vector Byte 6
deriving DecidableEq, Repr

/-- The builder's state and the TX port's outputs (10_state.md R48, R50). -/
structure TxState where
  busy : Bool
  /-- tx.f, the frame index. -/
  frame : BitVec 2
  /-- tx.s, the slot index 0 to 49. -/
  slot : BitVec 6
  /-- tx.pairs, the DONE responses of this sequence. -/
  pairs : Byte
  latch : Latch
  snap : Snapshot
  /-- tx_valid. -/
  valid : Bool
  /-- tx_word, a pulse-pair word. -/
  word : Word
deriving DecidableEq, Repr

/-- What the block samples at one rising clock edge: the level of rst_n and at most one word on each input interface
(30_encoding.md R81, R82, R85, R86). -/
structure Cycle where
  rstN : Bool
  bus : Option (BitVec 39)
  rx : Option (BitVec 34)
  resp : Option (BitVec 1)
deriving DecidableEq, Repr

/-- The machine. The fields are the elements of 10_state.md R21, then two fields of the model's own: `rdata`, an output
of the block, and `inputs`, what the outside world is about to do. -/
structure State where
  rx : RxState
  /-- RESULT (R40). -/
  result : Word
  /-- RESULT_RAW (R41). -/
  resultRaw : Word
  tx : TxState
  /-- CFG (R23). -/
  cfg : Word
  /-- VARIANT (R24). -/
  variant : Word
  /-- HDR_WIN (R25). -/
  hdrWin : Word
  /-- B0_WIN (R26). -/
  b0Win : Word
  /-- B1_WIN (R27). -/
  b1Win : Word
  /-- STOP_WIN (R28). -/
  stopWin : Word
  /-- TX_HDR (R29). -/
  txHdr : Word
  /-- TX_B0 (R30). -/
  txB0 : Word
  /-- TX_B1 (R31). -/
  txB1 : Word
  /-- TX_STOP (R32). -/
  txStop : Word
  /-- TX_TRL0 (R33). -/
  txTrl0 : Word
  /-- TX_TRL1 (R34). -/
  txTrl1 : Word
  /-- ERR (R37). -/
  err : Word
  /-- INT_RAW (R38). -/
  intRaw : Word
  /-- INT_ENA (R39). -/
  intEna : Word
  /-- rdata[31:0] as the last bus read returned it (30_encoding.md R81). An output, not storage: assumption log 5. -/
  rdata : Word
  /-- The clock edges still to come, first one first: assumption log 1. -/
  inputs : List Cycle
deriving DecidableEq, Repr

/-- Reasons for the machine to stop with a fault: there are none. "The block never halts, never becomes stuck, and goes
on accepting every event" (60_exceptions.md R230; R240: "No event is refused"). -/
inductive Fault where
deriving DecidableEq, Repr

/-- Reasons for the model to refuse an instruction. -/
inductive Refusal where
  /-- Raised by an arm of Machine/Dispatch.lean whose instruction has no meaning yet; safe. No arm does so in this
  model. -/
  | notModelled (mnemonic : String)
deriving DecidableEq, Repr

/-- The receive path after reset (R260): no capture, every byte of the buffer 0. -/
def RxState.reset : RxState :=
  { isOpen := false, shift := 0, nbits := 0, count := 0, buf := [], lastSym := .noPair }

/-- A pair of zero durations. -/
def DurPair.reset : DurPair := { mark := 0, space := 0 }

/-- The snapshot after reset (R260): every field 0. -/
def Snapshot.reset : Snapshot :=
  { hdr := .reset, b0 := .reset, b1 := .reset, stop := .reset, reps := 0, trlEn := false, trl := Vector.replicate 6 0 }

/-- The transmit path after reset (R260): idle, nothing presented. -/
def TxState.reset : TxState :=
  { busy := false, frame := 0, slot := 0, pairs := 0, latch := { a := 0, b := 0, c := 0 }, snap := .reset, valid := false,
    word := 0 }

/-- The machine right after reset (70_reset_and_hazards.md R260). `rdata` and `inputs` are the model's own: assumption
log 1 and 5. -/
def State.reset : State :=
  { rx := .reset
    result := 0
    resultRaw := 0
    tx := .reset
    cfg := 0x00000005
    variant := 0x00000047
    hdrWin := 0x12C00FA0
    b0Win := 0x02BC015E
    b1Win := 0x073A015E
    stopWin := 0x15E01324
    txHdr := 0x11301130
    txB0 := 0x021C021C
    txB1 := 0x0654021C
    txStop := 0x1464021C
    txTrl0 := 0
    txTrl1 := 0
    err := 0
    intRaw := 0
    intEna := 0
    rdata := 0
    inputs := [] }

end Sys2Proof.Machine
end

