-- ==== Sys2Proof/Machine/Operands.lean ====
section
/-! DEFINITION. The operand forms: the fields of each register word (10_state.md R23 to R45), and the classifier
(40_classifier.md R111 to R118). -/

namespace Sys2Proof.Machine

/-! ## Register fields -/

/-- CFG.CHK_CMPL, bit 0 (R23). -/
def cfgChkCmpl (cfg : Word) : Bool := cfg.getLsbD 0

/-- CFG.REPEAT, bits [2:1] (R23). -/
def cfgRepeat (cfg : Word) : BitVec 2 := cfg.extractLsb' 1 2

/-- CFG.TRL_EN, bit 3 (R23). -/
def cfgTrlEn (cfg : Word) : Bool := cfg.getLsbD 3

/-- VARIANT.PWROFF_EN, bit 0 (R24). -/
def varPwrOff (v : Word) : Bool := v.getLsbD 0

/-- VARIANT.SWAUTO_EN, bit 1 (R24). -/
def varSwAuto (v : Word) : Bool := v.getLsbD 1

/-- VARIANT.SWMAN_EN, bit 2 (R24). -/
def varSwMan (v : Word) : Bool := v.getLsbD 2

/-- VARIANT.SWLR_EN, bit 3 (R24). -/
def varSwLr (v : Word) : Bool := v.getLsbD 3

/-- VARIANT.OTHER_EN, bit 4 (R24). -/
def varOther (v : Word) : Bool := v.getLsbD 4

/-- VARIANT.TEMP_EXT_EN, bit 5 (R24). -/
def varTempExt (v : Word) : Bool := v.getLsbD 5

/-- VARIANT.FAN0_FIXED, bit 6 (R24). -/
def varFan0Fixed (v : Word) : Bool := v.getLsbD 6

/-- The low field [14:0] of a window or emission register: LO or MARK (R25, R29). -/
def lowDur (w : Word) : Dur := w.extractLsb' 0 15

/-- The high field [30:16] of a window or emission register: HI or SPACE (R25, R29). -/
def highDur (w : Word) : Dur := w.extractLsb' 16 15

/-- The (MARK, SPACE) pair of an emission register (R29). -/
def durPair (w : Word) : DurPair := { mark := lowDur w, space := highDur w }

/-- Byte `k` of a register, at bits [8k+7 : 8k] (20_memory.md R64). -/
def byteOf (w : Word) (k : Nat) : Byte := w.extractLsb' (8 * k) 8

/-- Four bytes in one register, the lowest index at the lowest bits (20_memory.md R64). -/
def wordOfBytes (b0 b1 b2 b3 : Byte) : Word := b3 ++ b2 ++ b1 ++ b0

/-! ## Write masks: a reserved bit ignores writes (10_state.md R22) -/

/-- VARIANT bits [6:0]. -/
def variantMask : Word := 0x0000007F

/-- Window and emission registers: bits 15 and 31 are reserved. -/
def pairMask : Word := 0x7FFF7FFF

/-- TX_TRL1 bits [15:0]. -/
def trl1Mask : Word := 0x0000FFFF

/-- ERR bits [5:0]. -/
def errMask : Word := 0x0000003F

/-- INT_RAW and INT_ENA bits [2:0]. -/
def intMask : Word := 0x00000007

/-- What CFG holds after a write of `v` (44_host_bus.md R212): CHK_CMPL and TRL_EN from `v`; REPEAT from `v` unless that
field of `v` is 0, in which case REPEAT stays (WARL); the reserved bits stay 0. -/
def cfgAfterWrite (cfg v : Word) : Word :=
  let reps := if cfgRepeat v = 0 then cfgRepeat cfg else cfgRepeat v
  (0 : BitVec 28) ++ BitVec.ofBool (cfgTrlEn v) ++ reps ++ BitVec.ofBool (cfgChkCmpl v)

/-! ## The classifier -/

/-- `InWin(v, W)`: LO ≤ v ≤ HI, unsigned, both bounds inclusive; empty when LO > HI (R111). -/
def inWin (v : Dur) (w : Word) : Bool := decide (lowDur w ≤ v) && decide (v ≤ highDur w)

/-- Mark then Space (R112). -/
def polarityOk (p : PulsePair) : Bool := p.l0 == .mark && p.l1 == .space

/-- `Classify(w)`: first match in the order Header, Bit 0, Bit 1, Stop; otherwise Noise (R113). -/
def classify (s : State) (p : PulsePair) : Symbol :=
  if !polarityOk p then .noise
  else if inWin p.d0 s.hdrWin && inWin p.d1 s.hdrWin then .header
  else if inWin p.d1 s.b0Win then .bit0
  else if inWin p.d1 s.b1Win then .bit1
  else if inWin p.d1 s.stopWin then .stop
  else .noise

end Sys2Proof.Machine
end

