-- ==== Sys2Proof/Machine/Flags.lean ====
section
/-! DEFINITION. The block's status flags: the codes of the symbol and the result enumerations, the bits of ERR and
INT_RAW, STATUS, and the interrupt output (10_state.md R36 to R40, R51, R52). -/

namespace Sys2Proof.Machine

/-- The 3-bit code of a symbol (30_encoding.md R90). -/
def symbolCode : Symbol → BitVec 3
  | .noPair => 0
  | .header => 1
  | .bit0 => 2
  | .bit1 => 3
  | .stop => 4
  | .noise => 5

/-- The code of an UNREC_REASON (10_state.md R40). -/
def unrecCode : UnrecReason → BitVec 2
  | .other => 0
  | .short => 1
  | .complement => 2

/-- The code of a FAN speed (R40). -/
def fanFieldCode : Fan → BitVec 3
  | .auto => 0
  | .low => 1
  | .middle => 2
  | .high => 3
  | .fixed => 4

/-- The code of a MODE (R40). -/
def modeFieldCode : Mode → BitVec 2
  | .auto => 0
  | .cool => 1
  | .dryFan => 2
  | .heat => 3

/-- The ERR bit of a cause (60_exceptions.md R232). -/
def errBit : ErrCause → Word
  | .illCmd => 0x01
  | .txBusyStart => 0x02
  | .txFail => 0x04
  | .rxOvf => 0x08
  | .rxIllOp => 0x10
  | .txSpurious => 0x20

/-- The INT_RAW bit of a source (60_exceptions.md R234). -/
def intBit : IntSource → Word
  | .rxDone => 0x1
  | .txDone => 0x2
  | .err => 0x4

/-- STATUS: RX_OPEN [0], TX_BUSY [1], RX_NBITS [4:2], LAST_SYM [7:5], RX_SHIFT [15:8] (R36, 44_host_bus.md R210). -/
def statusWord (s : State) : Word :=
  (0 : BitVec 16) ++ s.rx.shift ++ symbolCode s.rx.lastSym ++ s.rx.nbits ++ BitVec.ofBool s.tx.busy ++
    BitVec.ofBool s.rx.isOpen

/-- The interrupt output, a level: irq = OR over i of INT_RAW[i] and INT_ENA[i] (R51, 60_exceptions.md R236). -/
def irq (s : State) : Bool :=
  (s.intRaw.getLsbD 0 && s.intEna.getLsbD 0) || (s.intRaw.getLsbD 1 && s.intEna.getLsbD 1) ||
    (s.intRaw.getLsbD 2 && s.intEna.getLsbD 2)

end Sys2Proof.Machine
end

