-- ==== Sys2Proof/Machine/Ops.lean ====
section
/-! DEFINITION. The shared operations: byte memory; recording an error, the block's one form of exception
(60_exceptions.md R230); the assembler's functions (41_assembler.md R130 to R134); and taking the next event from the
pending input (60_exceptions.md R237). -/

namespace Sys2Proof.Machine

/-! ## Byte memory -/

/-- What an address that nothing is stored at reads as: 0 (70_reset_and_hazards.md R260, 41_assembler.md R130). -/
abbrev unlistedByte : Byte := 0

/-- Byte `a` of a memory. -/
def Memory.read : Memory → Nat → Byte
  | [], _ => unlistedByte
  | (b, x) :: m, a => if a = b then x else Memory.read m a

/-- Store byte `v` at address `a`, keeping the canonical form. -/
def Memory.write : Memory → Nat → Byte → Memory
  | [], a, v => if v = unlistedByte then [] else [(a, v)]
  | (b, x) :: m, a, v =>
    if a < b then (if v = unlistedByte then (b, x) :: m else (a, v) :: (b, x) :: m)
    else if a = b then (if v = unlistedByte then m else (a, v) :: m)
    else (b, x) :: Memory.write m a v

/-- The canonical form: addresses strictly rising and inside the RX byte buffer, and no entry equal to what an unlisted
address reads as. -/
abbrev Memory.wf (m : Memory) : Prop :=
  m.Pairwise (fun c d => c.1 < d.1) ∧ ∀ c ∈ m, c.2 ≠ unlistedByte ∧ c.1 < Config.rxBufBytes

/-! ## Errors and events -/

/-- `event E`: INT_RAW.E <- 1 (00_scope.md R9). Whether the source is enabled does not matter (60_exceptions.md R235). -/
def raiseEvent (e : IntSource) (s : State) : State := { s with intRaw := s.intRaw ||| intBit e }

/-- `raise Err(cause)`: ERR[cause] <- 1, then INT_RAW.ERR <- 1, and nothing else (60_exceptions.md R230). -/
def raiseErr (c : ErrCause) (s : State) : State := raiseEvent .err { s with err := s.err ||| errBit c }

/-- A W1C write: the bits of `mask` written as 1 are cleared, no other bit changes (44_host_bus.md R224, R225). -/
def w1c (x v mask : Word) : Word := x &&& not32 (v &&& mask)

/-! ## The assembler -/

/-- `sat16(n + 1)` for a 16-bit count (00_scope.md R9, 92_eei_decisions.md D12). -/
def satIncr (n : BitVec 16) : BitVec 16 := BitVec.ofNat 16 (min (n.toNat + 1) Config.countMax)

/-- What the receive path is when a capture has just opened (41_assembler.md R130). -/
def openedRx : RxState := { RxState.reset with isOpen := true }

/-- The receive path once a capture is sure to be open. -/
def openRx (r : RxState) : RxState := if r.isOpen then r else openedRx

/-- `CaptureOpen()`: opens a capture if none is open (R130). -/
def captureOpen (s : State) : State := { s with rx := openRx s.rx }

/-- Where the next completed byte of a capture is stored: at index rx.count while the buffer has room (R131). -/
def appendAddr (r : RxState) : Option Nat :=
  if r.count.toNat < Config.rxBufBytes then some r.count.toNat else none

/-- `AppendByte(v)`: store it if there is room, otherwise raise RX_OVF; count it either way (R131). -/
def appendByte (v : Byte) (s : State) : State :=
  match appendAddr s.rx with
  | some a => { s with rx := { s.rx with buf := Memory.write s.rx.buf a v, count := satIncr s.rx.count } }
  | none => raiseErr .rxOvf { s with rx := { s.rx with count := satIncr s.rx.count } }

/-- The receive path with no partial byte. -/
def clearPartial (s : State) : State := { s with rx := { s.rx with shift := 0, nbits := 0 } }

/-- `AssembleBit(b)`: shift one bit in; the eighth completes the byte (R132). -/
def assembleBit (b : Bool) (s : State) : State :=
  let shift : Byte := (s.rx.shift <<< 1) ||| (BitVec.ofBool b).setWidth 8
  if s.rx.nbits = 7 then clearPartial (appendByte shift s)
  else { s with rx := { s.rx with shift := shift, nbits := s.rx.nbits + 1 } }

/-- The partial byte padded with 0 in its low bits (R134). -/
def paddedPartial (s : State) : Byte := s.rx.shift <<< (8 - s.rx.nbits.toNat)

/-- `FlushPartial()`: a partial byte becomes a full one (R134). -/
def flushPartial (s : State) : State :=
  if s.rx.nbits = 0 then s else clearPartial (appendByte (paddedPartial s) s)

/-! ## Taking the next event of the pending input -/

/-- The first event of a clock edge and the edge without it, in the order host bus, RX event, TX response
(60_exceptions.md R237); none when the edge carries no event. -/
def takeEvent (c : Cycle) : Option (PortWord × Cycle) :=
  match c.bus with
  | some w => some (.bus w, { c with bus := none })
  | none =>
    match c.rx with
    | some w => some (.rx w, { c with rx := none })
    | none =>
      match c.resp with
      | some w => some (.resp w, { c with resp := none })
      | none => none

/-- What is pending once an edge has given an event up: the edge itself while it holds another event. -/
def afterEvent (c : Cycle) (rest : List Cycle) : List Cycle :=
  if c.bus.isNone && c.rx.isNone && c.resp.isNone then rest else c :: rest

/-- The edge that carries one word and nothing else, with rst_n = 1. -/
def cycleOf : PortWord → Cycle
  | .bus w => { rstN := true, bus := some w, rx := none, resp := none }
  | .rx w => { rstN := true, bus := none, rx := some w, resp := none }
  | .resp w => { rstN := true, bus := none, rx := none, resp := some w }

/-- The machine while rst_n = 0: every element at its reset value, no event taken, reads answer 0
(70_reset_and_hazards.md R261). `rest` is the input still to come. -/
def heldInReset (rest : List Cycle) : State := { State.reset with inputs := rest }

end Sys2Proof.Machine
end

