-- ==== Sys2Proof/Machine/Builder.lean ====
section
/-! DEFINITION. The frame builder and the TX sequencer (43_builder.md R180 to R190). -/

namespace Sys2Proof.Machine

/-- nframes = repeat + trl_en, derived when read (10_state.md R49, R182). -/
def nframes (n : Snapshot) : Nat := n.reps.toNat + n.trlEn.toNat

/-- `FrameBytes(f)`: A, A', B, B', C, C' for a repetition, the six trailer bytes as stored for the frame after them
(R181, R183). -/
def frameBytes (t : TxState) (f : Nat) : Vector Byte 6 :=
  if f < t.snap.reps.toNat then
    #v[t.latch.a, not8 t.latch.a, t.latch.b, not8 t.latch.b, t.latch.c, not8 t.latch.c]
  else t.snap.trl

/-- The bit that slot `n` of frame `f` carries, for a slot 1 to 48: bit 7 - ((n-1) mod 8) of byte (n-1) div 8 (R184). -/
def slotBit (t : TxState) (f n : Nat) : Bool := ((frameBytes t f).getD ((n - 1) / 8) 0).getLsbD (7 - (n - 1) % 8)

/-- `SlotPair(f, s)`: the durations of a slot (R185). Slots are 0 to 49; assumption log 12 says what is not a slot. -/
def slotPair (t : TxState) (f n : Nat) : DurPair :=
  if n = 0 then t.snap.hdr
  else if n = Config.stopSlot then t.snap.stop
  else if slotBit t f n then t.snap.b1
  else t.snap.b0

/-- `PairWord`: {0, space, 1, mark}, a Mark and then a Space (R186). -/
def wordOfDurPair (p : DurPair) : Word := (0 : BitVec 1) ++ p.space ++ (1 : BitVec 1) ++ p.mark

/-- `PairWord(f, s)`: the word presented for a slot (R186). -/
def pairWord (t : TxState) (f n : Nat) : Word := wordOfDurPair (slotPair t f n)

/-- `Next(f, s)`: the next position, or none at the end of the sequence (R189). -/
def nextPos (t : TxState) : Option (BitVec 2 × BitVec 6) :=
  if t.slot.toNat < Config.stopSlot then some (t.frame, t.slot + 1)
  else if t.frame.toNat + 1 < nframes t.snap then some (t.frame + 1, 0)
  else none

/-- Put the position at (f, s) and present its word on the TX port (`pos <- (f, s)` and `present`, 00_scope.md R9). -/
def presentAt (f : BitVec 2) (n : BitVec 6) (t : TxState) : TxState :=
  { t with frame := f, slot := n, valid := true, word := pairWord t f.toNat n.toNat }

/-- Present nothing and be idle (R194, R195). -/
def idleTx (t : TxState) : TxState := { t with busy := false, valid := false, word := 0 }

/-- The snapshot a TX_START takes of the configuration (R190). -/
def takeSnapshot (s : State) : Snapshot :=
  { hdr := durPair s.txHdr
    b0 := durPair s.txB0
    b1 := durPair s.txB1
    stop := durPair s.txStop
    reps := cfgRepeat s.cfg
    trlEn := cfgTrlEn s.cfg
    trl := #v[byteOf s.txTrl0 0, byteOf s.txTrl0 1, byteOf s.txTrl0 2, byteOf s.txTrl0 3, byteOf s.txTrl1 0,
      byteOf s.txTrl1 1] }

/-- An accepted TX_START: latch the triple, snapshot the configuration, present the Header of frame 0 (R190). -/
def startTx (a b c : Byte) (s : State) : State :=
  let t : TxState := { s.tx with latch := { a := a, b := b, c := c }, snap := takeSnapshot s, pairs := 0, busy := true }
  { s with tx := presentAt 0 0 t }

/-- A DONE while busy: count the pair, then present the next slot or end the sequence (R194). -/
def advanceTx (s : State) : State :=
  let t : TxState := { s.tx with pairs := s.tx.pairs + 1 }
  match nextPos s.tx with
  | some (f, n) => { s with tx := presentAt f n t }
  | none => raiseEvent .txDone { s with tx := idleTx { t with frame := 0, slot := 0 } }

/-- A FAIL while busy: the sequence ends and the position keeps its value (R195). -/
def failTx (s : State) : State := raiseErr .txFail { s with tx := idleTx s.tx }

end Sys2Proof.Machine
end

