-- ==== Sys2Proof/Machine/HostBus.lean ====
section
/-! DEFINITION. The host-bus operations (44_host_bus.md R210 to R226). -/

namespace Sys2Proof.Machine

/-- TX_POS: SLOT [5:0], FRAME [7:6], PAIRS_DONE [15:8] (10_state.md R43). -/
def txPosWord (t : TxState) : Word := (0 : BitVec 16) ++ t.pairs ++ t.frame ++ t.slot

/-- TX_LATCH: A [7:0], B [15:8], C [23:16] (10_state.md R44). -/
def txLatchWord (t : TxState) : Word := wordOfBytes t.latch.a t.latch.b t.latch.c 0

/-- RX_BYTESi: RxBuf[4i] to RxBuf[4i+3] (10_state.md R45). -/
def rxBytesWord (m : Memory) (i : Nat) : Word :=
  wordOfBytes (Memory.read m (4 * i)) (Memory.read m (4 * i + 1)) (Memory.read m (4 * i + 2)) (Memory.read m (4 * i + 3))

/-- What a read of register word `a` returns (R210). -/
def readWord (s : State) (a : WAddr) : Word :=
  match a.toNat with
  | 0 => s.cfg
  | 1 => s.variant
  | 2 => s.hdrWin
  | 3 => s.b0Win
  | 4 => s.b1Win
  | 5 => s.stopWin
  | 6 => s.txHdr
  | 7 => s.txB0
  | 8 => s.txB1
  | 9 => s.txStop
  | 10 => s.txTrl0
  | 11 => s.txTrl1
  | 12 => 0
  | 13 => statusWord s
  | 14 => s.err
  | 15 => s.intRaw
  | 16 => s.intEna
  | 17 => s.result
  | 18 => s.resultRaw
  | 19 => s.rx.count.setWidth 32
  | 20 => txPosWord s.tx
  | 21 => txLatchWord s.tx
  | n => if 32 ≤ n ∧ n ≤ 39 then rxBytesWord s.rx.buf (n - 32) else 0

/-- BUS_READ(a): returns the word on rdata and changes no state of the block (R210, R228). -/
def execBusRead (a : WAddr) (s : State) : Host.Outcome State Fault Refusal := .next { s with rdata := readWord s a }

/-- WR_IGNORED (R211): it does nothing. -/
def execWrIgnored (s : State) : Host.Outcome State Fault Refusal := .next s

/-- WR_CFG (R212). -/
def execWrCfg (v : Word) (s : State) : Host.Outcome State Fault Refusal :=
  .next { s with cfg := cfgAfterWrite s.cfg v }

/-- WR_VARIANT (R213). -/
def execWrVariant (v : Word) (s : State) : Host.Outcome State Fault Refusal :=
  .next { s with variant := v &&& variantMask }

/-- WR_HDR_WIN (R214). -/
def execWrHdrWin (v : Word) (s : State) : Host.Outcome State Fault Refusal := .next { s with hdrWin := v &&& pairMask }

/-- WR_B0_WIN (R215). -/
def execWrB0Win (v : Word) (s : State) : Host.Outcome State Fault Refusal := .next { s with b0Win := v &&& pairMask }

/-- WR_B1_WIN (R216). -/
def execWrB1Win (v : Word) (s : State) : Host.Outcome State Fault Refusal := .next { s with b1Win := v &&& pairMask }

/-- WR_STOP_WIN (R217). -/
def execWrStopWin (v : Word) (s : State) : Host.Outcome State Fault Refusal := .next { s with stopWin := v &&& pairMask }

/-- WR_TX_HDR (R218). -/
def execWrTxHdr (v : Word) (s : State) : Host.Outcome State Fault Refusal := .next { s with txHdr := v &&& pairMask }

/-- WR_TX_B0 (R219). -/
def execWrTxB0 (v : Word) (s : State) : Host.Outcome State Fault Refusal := .next { s with txB0 := v &&& pairMask }

/-- WR_TX_B1 (R220). -/
def execWrTxB1 (v : Word) (s : State) : Host.Outcome State Fault Refusal := .next { s with txB1 := v &&& pairMask }

/-- WR_TX_STOP (R221). -/
def execWrTxStop (v : Word) (s : State) : Host.Outcome State Fault Refusal := .next { s with txStop := v &&& pairMask }

/-- WR_TX_TRL0 (R222). -/
def execWrTxTrl0 (v : Word) (s : State) : Host.Outcome State Fault Refusal := .next { s with txTrl0 := v }

/-- WR_TX_TRL1 (R223). -/
def execWrTxTrl1 (v : Word) (s : State) : Host.Outcome State Fault Refusal := .next { s with txTrl1 := v &&& trl1Mask }

/-- WR_ERR (R224). -/
def execWrErr (v : Word) (s : State) : Host.Outcome State Fault Refusal := .next { s with err := w1c s.err v errMask }

/-- WR_INT_RAW (R225). -/
def execWrIntRaw (v : Word) (s : State) : Host.Outcome State Fault Refusal :=
  .next { s with intRaw := w1c s.intRaw v intMask }

/-- WR_INT_ENA (R226). -/
def execWrIntEna (v : Word) (s : State) : Host.Outcome State Fault Refusal := .next { s with intEna := v &&& intMask }

end Sys2Proof.Machine
end

