-- ==== Sys2Proof/Machine/Interpret.lean ====
section
/-! DEFINITION. The frame interpreter (42_interpreter.md R150 to R163) and the layout of RESULT and RESULT_RAW
(10_state.md R40, R41). -/

namespace Sys2Proof.Machine

/-- `FanMap(fan_code)`: (FAN, FAN_DEFAULTED) (R161). -/
def fanMap (variant : Word) (code : BitVec 3) : Fan × Bool :=
  match code.toNat with
  | 5 => (.auto, false)
  | 4 => (.low, false)
  | 2 => (.middle, false)
  | 1 => (.high, false)
  | 0 => if varFan0Fixed variant then (.fixed, false) else (.auto, true)
  | _ => (.auto, true)

/-- `ModeMap(mode_code)` (R162). -/
def modeMap (code : BitVec 2) : Mode :=
  match code.toNat with
  | 2 => .auto
  | 0 => .cool
  | 1 => .dryFan
  | _ => .heat

/-- `TempMap(temp_code)`: (TEMP_VALID, TEMP_SENTINEL, TEMP_C) (R163). -/
def tempMap (variant : Word) (code : BitVec 4) : Bool × Bool × Byte :=
  match code.toNat with
  | 0 => (true, false, 17)
  | 1 => (true, false, 18)
  | 2 => (true, false, 20)
  | 3 => (true, false, 19)
  | 4 => (true, false, 24)
  | 5 => (true, false, 23)
  | 6 => (true, false, 21)
  | 7 => (true, false, 22)
  | 8 => (true, false, 28)
  | 9 => (true, false, 27)
  | 10 => (true, false, 29)
  | 11 => (true, false, 30)
  | 12 => (true, false, 25)
  | 13 => (true, false, 26)
  | 14 => if varTempExt variant then (true, true, 31) else (false, false, 0)
  | _ => if varTempExt variant then (true, false, 16) else (false, false, 0)

/-- `Settings(b2, b4)`: fan_code = b2[7:5], mode_code = b4[3:2], temp_code = b4[7:4] (R160, R163). -/
def settingsOf (variant : Word) (b2 b4 : Byte) : Settings :=
  let fanCode : BitVec 3 := b2.extractLsb' 5 3
  let modeCode : BitVec 2 := b4.extractLsb' 2 2
  let tempCode : BitVec 4 := b4.extractLsb' 4 4
  { fan := (fanMap variant fanCode).1
    fanDefaulted := (fanMap variant fanCode).2
    mode := modeMap modeCode
    tempValid := (tempMap variant tempCode).1
    tempSentinel := (tempMap variant tempCode).2.1
    tempC := (tempMap variant tempCode).2.2
    fanCode := fanCode
    modeCode := modeCode
    tempCode := tempCode }

/-- Bytes 1, 3 and 5 are the complements of bytes 0, 2 and 4 (R153). -/
def complementsHold (b0 b1 b2 b3 b4 b5 : Byte) : Bool := b1 == not8 b0 && b3 == not8 b2 && b5 == not8 b4

/-- `Interpret()`: the command of the capture as it stands; the order of the tests is part of the rule (R150). -/
def interpret (s : State) : Command :=
  let b (k : Nat) : Byte := Memory.read s.rx.buf k
  if s.rx.count.toNat = 0 then .noFrame
  else if s.rx.count.toNat < Config.bytesPerFrame then .unrecognized .short
  else if cfgChkCmpl s.cfg && !complementsHold (b 0) (b 1) (b 2) (b 3) (b 4) (b 5) then .unrecognized .complement
  else if varPwrOff s.variant && b 2 == 0x7B && b 4 == 0xE0 then .powerOff
  else if varSwAuto s.variant && b 2 == 0xF5 && b 4 == 0x04 then .swingAuto
  else if varSwMan s.variant && b 2 == 0xF5 && b 4 == 0x05 then .swingManual
  else if varSwLr s.variant && b 2 == 0x6B && b 4 == 0xE0 then .swingLeftRight
  else if varOther s.variant && b 0 == 0xB5 && b 2 == 0xF5 then .unrecognized .other
  else .settings (settingsOf s.variant (b 2) (b 4))

/-- RESULT of a SETTINGS command: TEMP_C [23:16], TEMP_SENTINEL [12], TEMP_VALID [11], MODE [10:9], FAN_DEFAULTED [8],
FAN [7:5], KIND [2:0] = 7 (10_state.md R40). -/
def settingsWord (x : Settings) : Word :=
  (0 : BitVec 8) ++ x.tempC ++ (0 : BitVec 3) ++ BitVec.ofBool x.tempSentinel ++ BitVec.ofBool x.tempValid ++
    modeFieldCode x.mode ++ BitVec.ofBool x.fanDefaulted ++ fanFieldCode x.fan ++ (0 : BitVec 2) ++ (7 : BitVec 3)

/-- RESULT of a command: KIND [2:0], UNREC_REASON [4:3], and the SETTINGS fields (R40). KIND 0 (NONE) is the value after
reset and no command's. -/
def resultWord : Command → Word
  | .noFrame => 1
  | .powerOff => 2
  | .swingAuto => 3
  | .swingManual => 4
  | .swingLeftRight => 5
  | .unrecognized r => (0 : BitVec 27) ++ unrecCode r ++ (6 : BitVec 3)
  | .settings x => settingsWord x

/-- RESULT_RAW of a command: the raw codes of a SETTINGS command, FAN_CODE [2:0], MODE_CODE [5:4], TEMP_CODE [11:8];
0 for every other (R41). -/
def resultRawWord : Command → Word
  | .settings x => (0 : BitVec 20) ++ x.tempCode ++ (0 : BitVec 2) ++ x.modeCode ++ (0 : BitVec 1) ++ x.fanCode
  | .noFrame | .powerOff | .swingAuto | .swingManual | .swingLeftRight | .unrecognized _ => 0

/-- Write both result registers (R40, R41). -/
def setResult (c : Command) (s : State) : State := { s with result := resultWord c, resultRaw := resultRawWord c }

end Sys2Proof.Machine
end

