-- ==== Sys2Proof/Machine/RxPort.lean ====
section
/-! DEFINITION. The RX port operations (41_assembler.md R137 to R141). -/

namespace Sys2Proof.Machine

/-- The bit a symbol contributes, if any: Bit 0 and Bit 1 are bits, Header, Stop and Noise are not (R136). -/
def shiftSymbol (sym : Symbol) (s : State) : State :=
  match sym with
  | .bit0 => assembleBit false s
  | .bit1 => assembleBit true s
  | .noPair | .header | .stop | .noise => s

/-- RX_PAIR(w) (R137). -/
def execRxPair (p : PulsePair) (s : State) : Host.Outcome State Fault Refusal :=
  let s := captureOpen s
  let sym := classify s p
  .next (shiftSymbol sym { s with rx := { s.rx with lastSym := sym } })

/-- RX_END() (R138). -/
def execRxEnd (s : State) : Host.Outcome State Fault Refusal :=
  let s := flushPartial (captureOpen s)
  let s := setResult (interpret s) s
  .next (raiseEvent .rxDone { s with rx := { s.rx with isOpen := false } })

/-- RX_NODATA() (R139): the capture is dropped and the result is NO_FRAME. -/
def execRxNodata (s : State) : Host.Outcome State Fault Refusal :=
  let s := captureOpen { s with rx := { s.rx with isOpen := false } }
  .next (raiseEvent .rxDone (setResult .noFrame { s with rx := { s.rx with isOpen := false } }))

/-- RX_RSVD() (R141). -/
def execRxRsvd (s : State) : Host.Outcome State Fault Refusal := .next (raiseErr .rxIllOp s)

end Sys2Proof.Machine
end

