-- ==== Sys2Proof/Machine/TxPort.lean ====
section
/-! DEFINITION. The CMD operations and the TX response operations (43_builder.md R190 to R196). -/

namespace Sys2Proof.Machine

/-- TX_DONE() (R194); while idle it is spurious (R196). -/
def execTxDone (s : State) : Host.Outcome State Fault Refusal :=
  .next (if s.tx.busy then advanceTx s else raiseErr .txSpurious s)

/-- TX_FAIL() (R195); while idle it is spurious (R196). -/
def execTxFail (s : State) : Host.Outcome State Fault Refusal :=
  .next (if s.tx.busy then failTx s else raiseErr .txSpurious s)

/-- CMD_NOP (R193): it does nothing. -/
def execCmdNop (s : State) : Host.Outcome State Fault Refusal := .next s

/-- CMD_TX_START(A, B, C) (R190); while busy it is dropped (R191). -/
def execCmdTxStart (a b c : Byte) (s : State) : Host.Outcome State Fault Refusal :=
  .next (if s.tx.busy then raiseErr .txBusyStart s else startTx a b c s)

/-- CMD_ILLEGAL (R192). -/
def execCmdIllegal (s : State) : Host.Outcome State Fault Refusal := .next (raiseErr .illCmd s)

end Sys2Proof.Machine
end

