-- ==== Sys2Proof/Machine/Dispatch.lean ====
section
/-! DEFINITION. One arm per instruction, each one direct call of its meaning. -/

namespace Sys2Proof.Machine

def exec (i : Instr) (s : State) : Host.Outcome State Fault Refusal :=
  match i with
  -- RX port
  | .rxPair p => Sys2Proof.Machine.execRxPair p s
  | .rxEnd _ => Sys2Proof.Machine.execRxEnd s
  | .rxNodata _ => Sys2Proof.Machine.execRxNodata s
  | .rxRsvd _ => Sys2Proof.Machine.execRxRsvd s
  -- TX response
  | .txDone => Sys2Proof.Machine.execTxDone s
  | .txFail => Sys2Proof.Machine.execTxFail s
  -- commands
  | .cmdNop _ => Sys2Proof.Machine.execCmdNop s
  | .cmdTxStart c b a _ => Sys2Proof.Machine.execCmdTxStart a b c s
  | .cmdIllegal _ _ => Sys2Proof.Machine.execCmdIllegal s
  -- configuration writes
  | .wrCfg v => Sys2Proof.Machine.execWrCfg v s
  | .wrVariant v => Sys2Proof.Machine.execWrVariant v s
  | .wrHdrWin v => Sys2Proof.Machine.execWrHdrWin v s
  | .wrB0Win v => Sys2Proof.Machine.execWrB0Win v s
  | .wrB1Win v => Sys2Proof.Machine.execWrB1Win v s
  | .wrStopWin v => Sys2Proof.Machine.execWrStopWin v s
  | .wrTxHdr v => Sys2Proof.Machine.execWrTxHdr v s
  | .wrTxB0 v => Sys2Proof.Machine.execWrTxB0 v s
  | .wrTxB1 v => Sys2Proof.Machine.execWrTxB1 v s
  | .wrTxStop v => Sys2Proof.Machine.execWrTxStop v s
  | .wrTxTrl0 v => Sys2Proof.Machine.execWrTxTrl0 v s
  | .wrTxTrl1 v => Sys2Proof.Machine.execWrTxTrl1 v s
  -- bookkeeping writes, ignored writes, reads
  | .wrErr v => Sys2Proof.Machine.execWrErr v s
  | .wrIntRaw v => Sys2Proof.Machine.execWrIntRaw v s
  | .wrIntEna v => Sys2Proof.Machine.execWrIntEna v s
  | .wrIgnored _ _ => Sys2Proof.Machine.execWrIgnored s
  | .busRead a _ => Sys2Proof.Machine.execBusRead a s

end Sys2Proof.Machine
end

