-- ==== Sys2Proof/Machine/Step.lean ====
section
/-! DEFINITION. One step of the block: it takes the next event of the pending input, decodes it and runs it whole
(20_memory.md R66, R69; 60_exceptions.md R237). -/

namespace Sys2Proof.Machine

/-- One step. With no edge pending, or an edge that carries no event, nothing happens; with rst_n = 0 the block is held in
reset; otherwise the edge's next event takes effect. -/
def step (s : State) : Host.Outcome State Fault Refusal :=
  match s.inputs with
  | [] => .next s
  | c :: rest =>
    if c.rstN then
      match takeEvent c with
      | none => .next { s with inputs := rest }
      | some (w, c') => exec (decode w) { s with inputs := afterEvent c' rest }
    else .next (heldInReset rest)

/-- The machine with the word of a table row as the very next event: an edge that carries that word alone is put before
the pending input. A number that is no word of an interface leaves the machine as it is. -/
def State.withFetchWord (s : State) (nbits w : Nat) : State :=
  match tableWord nbits w with
  | some pw => { s with inputs := cycleOf pw :: s.inputs }
  | none => s

end Sys2Proof.Machine
end

