-- ==== Sys2Proof/Machine/Agents.lean ====
section
/-! DEFINITION. The external agents and their duties (60_exceptions.md R248, R249; 70_reset_and_hazards.md R277). The
machine takes every event. Here each agent has a record of what it owes the block, an edge is judged by the state it begins
in, and `System.move` gives the agents no move that breaks a duty. The records are the agents' own, not storage of the
block: assumption log 20. -/

namespace Sys2Proof.Machine

/-! ## What the agents hold -/

/-- The RX transport between two deliveries (R248: batches and time-outs). -/
inductive RxTransport where
  /-- Nothing to deliver. -/
  | idle
  /-- A batch in delivery: the pairs still to send, in arrival order, and then one END. -/
  | batch (pairs : List PulsePair)
  /-- A receive that timed out with no pairs: one NODATA to send. -/
  | timedOut
deriving DecidableEq, Repr

/-- What the TX transport has done with the presented word (R248: transmit, then answer once). -/
inductive TxTransport where
  /-- None of it is on the air. -/
  | idle
  /-- The first pulse of `word` is on the air, the second is not. -/
  | firstSent (word : Word)
  /-- Both pulses of `word` are on the air: a DONE is due. -/
  | sent (word : Word)
  /-- The hardware failed to transmit the pair: a FAIL is due. -/
  | failed
deriving DecidableEq, Repr

/-- The two transports' records. -/
structure Agents where
  rx : RxTransport
  tx : TxTransport
deriving DecidableEq, Repr

/-- The block with its transports. -/
structure System where
  machine : State
  agents : Agents
deriving DecidableEq, Repr

/-- What happens next: something at a transport between two clock edges, or a clock edge with what the agents drive. -/
inductive Move where
  /-- A batch of pairs reaches the RX transport. -/
  | receive (pairs : List PulsePair)
  /-- A receive times out with no pairs. -/
  | timeOut
  /-- The TX transport puts one pulse on the air. -/
  | transmit (level : Polarity) (ticks : Dur)
  /-- The transmit hardware fails on the presented pair. -/
  | transmitFailure
  | edge (c : Cycle)
deriving DecidableEq, Repr

/-- The block after reset, with nothing in the transports' hands. -/
def System.start : System := { machine := State.reset, agents := { rx := .idle, tx := .idle } }

/-! ## The duties -/

/-- The pair the RX transport owes next. -/
def RxTransport.due : RxTransport → Option PulsePair
  | .batch (p :: _) => some p
  | .batch [] | .idle | .timedOut => none

/-- The batch once its next pair is sent. -/
def RxTransport.sentPair : RxTransport → RxTransport
  | .batch (_ :: ps) => .batch ps
  | .batch [] => .batch []
  | .idle => .idle
  | .timedOut => .timedOut

/-- The TX transport has transmitted the presented pair. -/
def TxTransport.mayDone : TxTransport → Bool
  | .sent _ => true
  | .idle | .firstSent _ | .failed => false

/-- The sender of event `i` keeps its duty. `s` is the state the event's clock cycle BEGINS in, before the cycle's own bus
event, so a DONE in the cycle of its TX_START breaks the duty (70_reset_and_hazards.md R277).
RX transport (R248): only the pairs of its batch in their order, then one END; NODATA only for a time-out; never OP 3.
TX transport (R248): a response only while tx_valid = 1, DONE only once the presented pair is on the air, FAIL only for a
real failure. Host (R249): TX_START only while idle; while a capture is open, no write that changes an RX window, VARIANT
or CHK_CMPL. DESIGN CHOICE (assumption log 19): "change" is read as storing another value than the register holds, so a
write of the value it holds keeps the duty, and the liberty "may write configuration at any time" is the rest: every other
write of configuration. -/
def keepsDuty (s : State) (a : Agents) : Instr → Bool
  | .rxPair p => a.rx.due == some p
  | .rxEnd _ => a.rx == .batch []
  | .rxNodata _ => a.rx == .timedOut
  | .rxRsvd _ => false
  | .txDone => s.tx.valid && a.tx.mayDone
  | .txFail => s.tx.valid && a.tx == .failed
  | .cmdTxStart _ _ _ _ => !s.tx.busy
  | .wrHdrWin v => !s.rx.isOpen || v &&& pairMask == s.hdrWin
  | .wrB0Win v => !s.rx.isOpen || v &&& pairMask == s.b0Win
  | .wrB1Win v => !s.rx.isOpen || v &&& pairMask == s.b1Win
  | .wrStopWin v => !s.rx.isOpen || v &&& pairMask == s.stopWin
  | .wrVariant v => !s.rx.isOpen || v &&& variantMask == s.variant
  | .wrCfg v => !s.rx.isOpen || cfgChkCmpl v == cfgChkCmpl s.cfg
  | .cmdNop _ | .cmdIllegal _ _ | .wrTxHdr _ | .wrTxB0 _ | .wrTxB1 _ | .wrTxStop _ | .wrTxTrl0 _ | .wrTxTrl1 _
  | .wrErr _ | .wrIntRaw _ | .wrIntEna _ | .wrIgnored _ _ | .busRead _ _ => true

/-- What the agents owe once event `i` is sent: a sent pair leaves the batch, END and NODATA end a delivery, and a response
is the one answer to the presented word. -/
def Agents.sent (a : Agents) : Instr → Agents
  | .rxPair _ => { a with rx := a.rx.sentPair }
  | .rxEnd _ | .rxNodata _ => { a with rx := .idle }
  | .txDone | .txFail => { a with tx := .idle }
  | .rxRsvd _ | .cmdNop _ | .cmdTxStart _ _ _ _ | .cmdIllegal _ _ | .wrCfg _ | .wrVariant _ | .wrHdrWin _ | .wrB0Win _
  | .wrB1Win _ | .wrStopWin _ | .wrTxHdr _ | .wrTxB0 _ | .wrTxB1 _ | .wrTxStop _ | .wrTxTrl0 _ | .wrTxTrl1 _ | .wrErr _
  | .wrIntRaw _ | .wrIntEna _ | .wrIgnored _ _ | .busRead _ _ => a

/-! ## A clock cycle -/

/-- The events of a clock edge in their order (60_exceptions.md R237). -/
def Cycle.events (c : Cycle) : List Instr :=
  (c.bus.map fun w => decode (.bus w)).toList ++ (c.rx.map fun w => decode (.rx w)).toList ++
    (c.resp.map fun w => decode (.resp w)).toList

/-- How many steps of the machine a clock edge is. -/
def Cycle.steps (c : Cycle) : Nat := if c.rstN then max 1 c.events.length else 1

/-- The machine over one whole clock edge. -/
def runCycle (c : Cycle) (s : State) : Host.Outcome State Fault Refusal :=
  Sys2Proof.core.run c.steps { s with inputs := c :: s.inputs }

/-- The agents after a clock edge; in reset the TX transport drops the pair it holds (70_reset_and_hazards.md R262). -/
def Agents.afterCycle (a : Agents) (c : Cycle) : Agents :=
  let b := c.events.foldl Agents.sent a
  if c.rstN then b else { b with tx := .idle }

/-! ## Moves that break no duty -/

/-- The TX transport after a pulse, if that pulse is the one due: D0 ticks of L0 and then D1 ticks of L1 of the presented
word (R248; 30_encoding.md R84). -/
def transmitPulse (s : State) (t : TxTransport) (level : Polarity) (ticks : Dur) : Option TxTransport :=
  let p := pairOfWord s.tx.word
  match t with
  | .idle => if s.tx.valid ∧ level = p.l0 ∧ ticks = p.d0 then some (.firstSent s.tx.word) else none
  | .firstSent w => if level = p.l1 ∧ ticks = p.d1 then some (.sent w) else none
  | .sent _ | .failed => none

/-- One move of the closed system; none where it breaks a duty of the agent that makes it. -/
def System.move (y : System) : Move → Option System
  | .receive ps => if y.agents.rx = .idle then some { y with agents := { y.agents with rx := .batch ps } } else none
  | .timeOut => if y.agents.rx = .idle then some { y with agents := { y.agents with rx := .timedOut } } else none
  | .transmit l d =>
    match transmitPulse y.machine y.agents.tx l d with
    | some t => some { y with agents := { y.agents with tx := t } }
    | none => none
  | .transmitFailure =>
    match y.agents.tx with
    | .idle | .firstSent _ =>
      if y.machine.tx.valid then some { y with agents := { y.agents with tx := .failed } } else none
    | .sent _ | .failed => none
  | .edge c =>
    if c.events.all (keepsDuty y.machine y.agents) then
      match runCycle c y.machine with
      | .next t => some { machine := t, agents := y.agents.afterCycle c }
      | .fault _ | .refused _ => none
    else none

/-- Moves in order; none where one of them breaks a duty. -/
def System.run : List Move → System → Option System
  | [], y => some y
  | m :: ms, y =>
    match y.move m with
    | some z => System.run ms z
    | none => none

end Sys2Proof.Machine
end

