-- ==== Sys2Proof/Safety.lean ====
section
/-! DEFINITION. The terms in which claims speak: sequences of events, complete runs (70_reset_and_hazards.md R281), the
families of events, and the invariants that every step, and every move that breaks no duty, keeps. -/

namespace Sys2Proof.Machine

/-! ## Sequences of events -/

/-- Events taken in order from a state (70_reset_and_hazards.md R281), stopping at the first fault or refusal. -/
def execAll : List Instr → State → Host.Outcome State Fault Refusal
  | [], s => .next s
  | i :: is, s =>
    match exec i s with
    | .next t => execAll is t
    | .fault r => .fault r
    | .refused r => .refused r

/-- `tx.loop n`: up to n times, while a word is presented, that word is fed back to the RX port and then acknowledged
(30_encoding.md R98; assumption log 18). -/
def loopback : Nat → State → Host.Outcome State Fault Refusal
  | 0, s => .next s
  | n + 1, s =>
    if s.tx.busy then
      match execAll [.rxPair (pairOfWord s.tx.word), .txDone] s with
      | .next t => loopback n t
      | .fault r => .fault r
      | .refused r => .refused r
    else .next s

/-! ## The pseudo-operations of 30_encoding.md R98 -/

/-- `rx.hdr`. -/
def rxHdr : Instr := .rxPair (pairOfWord 0x11309130)

/-- `rx.bit0` and `rx.bit1`. -/
def rxBit (b : Bool) : Instr := .rxPair (pairOfWord (if b then 0x0654821C else 0x021C821C))

/-- `rx.stop`. -/
def rxStop : Instr := .rxPair (pairOfWord 0x1464821C)

/-- `rx.bits b1 b2 ... bn`. -/
def rxBits (bs : List Bool) : List Instr := bs.map rxBit

/-- `rx.byte V`: V[7] first. -/
def rxByte (v : Byte) : List Instr := rxBits ((List.range 8).map fun j => v.getLsbD (7 - j))

/-- `rx.frame A, B, C`: the 50 events of one repetition. -/
def rxFrame (a b c : Byte) : List Instr :=
  rxHdr :: rxByte a ++ rxByte (not8 a) ++ rxByte b ++ rxByte (not8 b) ++ rxByte c ++ rxByte (not8 c) ++ [rxStop]

/-- `tx.drain N`. -/
def txDrain (n : Nat) : List Instr := List.replicate n .txDone

/-! ## Complete runs -/

/-- A run is complete when no transmission and no capture is pending at its end (R281). -/
def State.complete (s : State) : Bool := !s.tx.busy && !s.rx.isOpen

/-! ## Who sends an event -/

/-- The operations of the RX port. -/
def isRxEvent : Instr → Bool
  | .rxPair _ | .rxEnd _ | .rxNodata _ | .rxRsvd _ => true
  | .txDone | .txFail | .cmdNop _ | .cmdTxStart _ _ _ _ | .cmdIllegal _ _ | .wrCfg _ | .wrVariant _
  | .wrHdrWin _ | .wrB0Win _ | .wrB1Win _ | .wrStopWin _ | .wrTxHdr _ | .wrTxB0 _ | .wrTxB1 _ | .wrTxStop _
  | .wrTxTrl0 _ | .wrTxTrl1 _ | .wrErr _ | .wrIntRaw _ | .wrIntEna _ | .wrIgnored _ _ | .busRead _ _ => false

/-- The operations of the transmit path: the two TX responses and TX_START. -/
def isTxEvent : Instr → Bool
  | .txDone | .txFail | .cmdTxStart _ _ _ _ => true
  | .rxPair _ | .rxEnd _ | .rxNodata _ | .rxRsvd _ | .cmdNop _ | .cmdIllegal _ _ | .wrCfg _ | .wrVariant _
  | .wrHdrWin _ | .wrB0Win _ | .wrB1Win _ | .wrStopWin _ | .wrTxHdr _ | .wrTxB0 _ | .wrTxB1 _ | .wrTxStop _
  | .wrTxTrl0 _ | .wrTxTrl1 _ | .wrErr _ | .wrIntRaw _ | .wrIntEna _ | .wrIgnored _ _ | .busRead _ _ => false

/-- The host-bus accesses but for CMD writes. -/
def isRegisterAccess : Instr → Bool
  | .wrCfg _ | .wrVariant _ | .wrHdrWin _ | .wrB0Win _ | .wrB1Win _ | .wrStopWin _ | .wrTxHdr _ | .wrTxB0 _
  | .wrTxB1 _ | .wrTxStop _ | .wrTxTrl0 _ | .wrTxTrl1 _ | .wrErr _ | .wrIntRaw _ | .wrIntEna _ | .wrIgnored _ _
  | .busRead _ _ => true
  | .rxPair _ | .rxEnd _ | .rxNodata _ | .rxRsvd _ | .txDone | .txFail | .cmdNop _ | .cmdTxStart _ _ _ _
  | .cmdIllegal _ _ => false

/-! ## Invariants -/

/-- The reserved bits of every register are 0 (10_state.md R22), and CFG.REPEAT is never 0 (R23). -/
structure RegistersOk (s : State) : Prop where
  cfg : s.cfg &&& ~~~0xF = 0
  repeatNonzero : cfgRepeat s.cfg ≠ 0
  variant : s.variant &&& ~~~0x7F = 0
  hdrWin : s.hdrWin &&& ~~~0x7FFF7FFF = 0
  b0Win : s.b0Win &&& ~~~0x7FFF7FFF = 0
  b1Win : s.b1Win &&& ~~~0x7FFF7FFF = 0
  stopWin : s.stopWin &&& ~~~0x7FFF7FFF = 0
  txHdr : s.txHdr &&& ~~~0x7FFF7FFF = 0
  txB0 : s.txB0 &&& ~~~0x7FFF7FFF = 0
  txB1 : s.txB1 &&& ~~~0x7FFF7FFF = 0
  txStop : s.txStop &&& ~~~0x7FFF7FFF = 0
  txTrl1 : s.txTrl1 &&& ~~~0xFFFF = 0
  err : s.err &&& ~~~0x3F = 0
  intRaw : s.intRaw &&& ~~~0x7 = 0
  intEna : s.intEna &&& ~~~0x7 = 0

/-- The receive path: the buffer is in canonical form and reads 0 at and beyond rx.count (R47), the partial byte is
right-aligned (R36), a closed capture holds no partial byte (41_assembler.md R134, R139), and an open one has had a pair
(30_encoding.md R90). -/
structure ReceiveOk (r : RxState) : Prop where
  bufCanonical : Memory.wf r.buf
  zeroBeyondCount : ∀ k, r.count.toNat ≤ k → Memory.read r.buf k = 0
  shiftRightAligned : r.shift.toNat < 2 ^ r.nbits.toNat
  closedHasNoPartial : r.isOpen = false → r.nbits = 0
  openHasSymbol : r.isOpen = true → r.lastSym ≠ .noPair

/-- The transmit path: tx_valid = tx.busy and tx_word is the word of the position or 0 (10_state.md R50); the slot is 0 to
49 (R48); while busy the frame is one of the sequence and tx.pairs counts the slots behind the position. -/
structure TransmitOk (t : TxState) : Prop where
  validIsBusy : t.valid = t.busy
  wordPresented : t.busy = true → t.word = pairWord t t.frame.toNat t.slot.toNat
  wordIdle : t.busy = false → t.word = 0
  slotInFrame : t.slot.toNat ≤ 49
  frameInSequence : t.busy = true → t.frame.toNat < nframes t.snap
  repeatsWhileBusy : t.busy = true → t.snap.reps ≠ 0
  pairsCountSlots : t.busy = true → t.pairs.toNat = 50 * t.frame.toNat + t.slot.toNat
  pairsBounded : t.pairs.toNat ≤ 200

/-- The encodings of RESULT and RESULT_RAW the block produces (10_state.md R40, R41; 93_implementation_defined.md U14). -/
structure ResultOk (s : State) : Prop where
  noneIsZero : s.result.extractLsb' 0 3 = 0 → s.result = 0
  reserved : s.result &&& 0xFF00E000 = 0
  unrecReason : s.result.extractLsb' 3 2 ≠ 3
  unrecOnlyUnrecognized : s.result.extractLsb' 0 3 ≠ 6 → s.result.extractLsb' 3 2 = 0
  settingsOnly : s.result.extractLsb' 0 3 ≠ 7 → s.result &&& ~~~0x1F = 0 ∧ s.resultRaw = 0
  fanLegal : (s.result.extractLsb' 5 3).toNat ≤ 4
  defaultedIsAuto : s.result.getLsbD 8 = true → s.result.extractLsb' 5 3 = 0
  tempRange : s.result.getLsbD 11 = true →
    16 ≤ (s.result.extractLsb' 16 8).toNat ∧ (s.result.extractLsb' 16 8).toNat ≤ 31
  tempInvalidIsZero : s.result.getLsbD 11 = false → s.result.extractLsb' 16 8 = 0
  sentinelIs31 : s.result.getLsbD 12 = true → s.result.getLsbD 11 = true ∧ s.result.extractLsb' 16 8 = 31
  rawReserved : s.resultRaw &&& 0xFFFFF0C8 = 0

/-- The transports and the block agree: a word the TX transport has begun to transmit is the word presented now, a failure
is one of a presented word (60_exceptions.md R248, 43_builder.md R188), and an open capture is of a batch the RX transport
is still delivering (R248, 70_reset_and_hazards.md R274). -/
structure AgentsOk (y : System) : Prop where
  onTheAirIsPresented : ∀ w, y.agents.tx = .firstSent w ∨ y.agents.tx = .sent w →
    y.machine.tx.valid = true ∧ y.machine.tx.word = w
  failureIsOfPresented : y.agents.tx = .failed → y.machine.tx.valid = true
  openIsInDelivery : y.machine.rx.isOpen = true → ∃ ps, y.agents.rx = .batch ps

/-- The invariants of the machine together. -/
structure State.Inv (s : State) : Prop where
  registers : RegistersOk s
  receive : ReceiveOk s.rx
  transmit : TransmitOk s.tx
  results : ResultOk s

end Sys2Proof.Machine
end

