-- ==== Sys2Proof/Certificates/Slice0/Obligations.lean ====
section
/-! DEFINITION. The statements for the provers. Each docstring names the rules of spec/ it formalises. -/

open Sys2Proof Sys2Proof.Machine

/-! ## Encoding -/

/-- Decoding the word of a well-formed instruction gives it back, with every operand at every value (30_encoding.md R81 to
R92). The operands for bits the spec calls ignored are the model's choice: assumption log 8. -/
def Obligations.DecodeEncodeRoundTrip : Prop :=
  ∀ i : Instr, i.wellFormed = true → decode (encode i) = i

/-- Every word of every interface decodes to a well-formed instruction: decoding is total (30_encoding.md R93) on the fixed
widths of R96. That encoding the instruction then gives the word back, so that no bit is dropped, is the MODEL'S CHOICE and
no rule of the spec: it holds because bits the spec calls ignored are kept as operands, assumption log 8 (DESIGN CHOICE). -/
def Obligations.EncodeDecodeRoundTrip : Prop :=
  ∀ w : PortWord, (decode w).wellFormed = true ∧ encode (decode w) = w

/-- The decoder selects the first row of the opcode table, on the word's own interface, with `word & mask = match` (R93). -/
def Obligations.DecodeSelectsFirstTableRow : Prop :=
  ∀ w : PortWord, (firstRow w).map (fun r => r.mnemonic) = some (decode w).mnemonic

/-- Words written out from the encodings of R81, R83, R85 and R97 to R99 decode to what they stand for. -/
def Obligations.SampleWordsDecode : Prop :=
  decode (.rx 0x011309130) = .rxPair ⟨4400, .mark, 4400, .space⟩ ∧
  decode (.rx 0x0821C021C) = .rxPair ⟨540, .space, 540, .mark⟩ ∧
  decode (.rx 0x100000000) = .rxEnd 0 ∧ decode (.rx 0x200000000) = .rxNodata 0 ∧
  decode (.rx 0x300000000) = .rxRsvd 0 ∧ decode (.resp 0) = .txDone ∧ decode (.resp 1) = .txFail ∧
  decode (.bus 0x4CE0BFB201) = .cmdTxStart 0xE0 0xBF 0xB2 0 ∧ decode (.bus 0x4C0000000F) = .cmdIllegal 0 15 ∧
  decode (.bus 0x4C00000000) = .cmdNop 0 ∧ decode (.bus 0x4000000003) = .wrCfg 3 ∧
  decode (.bus 0x5000000001) = .wrIntEna 1 ∧ decode (.bus 0x4E0000003F) = .wrErr 0x3F ∧
  decode (.bus 0x4D00000000) = .wrIgnored 13 0 ∧ decode (.bus 0x1100000000) = .busRead 17 0

/-- A write to CMD selects by WDATA[3:0] and takes A, B, C from [15:8], [23:16], [31:24] (44_host_bus.md R227;
30_encoding.md R89): each operand as a number computed from the value written. -/
def Obligations.CmdWriteDispatch : Prop :=
  ∀ v : Word,
    (v.toNat % 16 = 0 → ∃ ign, decode (writeWord 12 v) = .cmdNop ign) ∧
    (v.toNat % 16 = 1 → ∃ c b a ign, decode (writeWord 12 v) = .cmdTxStart c b a ign ∧
      a.toNat = v.toNat / 2 ^ 8 % 256 ∧ b.toNat = v.toNat / 2 ^ 16 % 256 ∧ c.toNat = v.toNat / 2 ^ 24) ∧
    (2 ≤ v.toNat % 16 → ∃ ign op, decode (writeWord 12 v) = .cmdIllegal ign op ∧ op.toNat = v.toNat % 16)

/-- Host byte addresses (20_memory.md R62): word `a` is at IRC_BASE + 4a, and an address reaches word `a` just when it is
that one. -/
def Obligations.HostByteAddresses : Prop :=
  ∀ (addr : Nat) (a : WAddr), hostWaddr addr = some a ↔ addr = Config.ircBase + 4 * a.toNat

/-! ## The step -/

/-- A step runs the decoded instruction: where the next pending edge has rst_n = 1 and `w` is its next event, the step is
exec of decode w with that event taken from the input; an edge without an event and an empty input change nothing else;
and withFetchWord makes a table word that next event (20_memory.md R66, R69). The pending input is the model's own form of
what the outside world sends: assumption log 1 to 3. -/
def Obligations.StepRunsDecodedInstruction : Prop :=
  (∀ (s : State) (c c' : Cycle) (rest : List Cycle) (w : PortWord), s.inputs = c :: rest → c.rstN = true →
    takeEvent c = some (w, c') → step s = exec (decode w) { s with inputs := afterEvent c' rest }) ∧
  (∀ (s : State) (rest : List Cycle), s.inputs = ⟨true, none, none, none⟩ :: rest →
    step s = .next { s with inputs := rest }) ∧
  (∀ s : State, s.inputs = [] → step s = .next s) ∧
  (∀ (s : State) (nbits w : Nat) (pw : PortWord), tableWord nbits w = some pw →
    step (s.withFetchWord nbits w) = exec (decode pw) s)

/-- The events of one clock cycle take effect in the order host bus, RX event, TX response, each seeing the effects of the
one before, and then the cycle is over (60_exceptions.md R237). One step per event is the model's choice: assumption log 3. -/
def Obligations.CycleOrderBusRxResponse : Prop :=
  ∀ (s : State) (b : Option (BitVec 39)) (r : Option (BitVec 34)) (t : Option (BitVec 1)) (rest : List Cycle),
    s.inputs = ⟨true, b, r, t⟩ :: rest → (b.isSome || r.isSome || t.isSome) = true →
    let events := (b.map fun w => decode (.bus w)).toList ++ (r.map fun w => decode (.rx w)).toList ++
      (t.map fun w => decode (.resp w)).toList
    ∃ u, Sys2Proof.core.run events.length s = .next u ∧ execAll events { s with inputs := rest } = .next u

/-- Set wins over clear: when a W1C write of ERR or INT_RAW and events that set bits fall in one cycle, every bit those
events set ends at 1. What an event sets is what it leaves in the two registers from a state where both are 0
(60_exceptions.md R238). The pending edge is the model's form of a cycle: assumption log 1 and 3. -/
def Obligations.SetWinsOverClear : Prop :=
  ∀ (s : State) (b : BitVec 39) (r : BitVec 34) (t : BitVec 1) (rest : List Cycle) (v : Word),
    s.inputs = ⟨true, some b, some r, some t⟩ :: rest →
    (decode (.bus b) = .wrErr v ∨ decode (.bus b) = .wrIntRaw v) →
    ∃ u x y, Sys2Proof.core.run 3 s = .next u ∧
      exec (decode (.rx r)) { s with err := 0, intRaw := 0 } = .next x ∧
      exec (decode (.resp t)) { s with err := 0, intRaw := 0 } = .next y ∧
      (x.err ||| y.err) &&& u.err = x.err ||| y.err ∧ (x.intRaw ||| y.intRaw) &&& u.intRaw = x.intRaw ||| y.intRaw

/-- A TX_START in the cycle of the DONE that ends a sequence is refused with TX_BUSY_START, and the sequence then ends
(the second example of 60_exceptions.md R237). The pending edge is the model's form of a cycle: assumption log 1 and 3. -/
def Obligations.StartInCycleOfLastDoneIsDropped : Prop :=
  ∀ (s : State) (b : BitVec 39) (rest : List Cycle) (c bb a : Byte) (ign : BitVec 4),
    s.inputs = ⟨true, some b, none, some 0⟩ :: rest → decode (.bus b) = .cmdTxStart c bb a ign → s.tx.busy = true →
    s.tx.slot = 49 → s.tx.frame.toNat + 1 = s.tx.snap.reps.toNat + s.tx.snap.trlEn.toNat →
    ∃ u, Sys2Proof.core.run 2 s = .next u ∧ u.tx.busy = false ∧ u.tx.latch = s.tx.latch ∧ u.err.getLsbD 1 = true ∧
      u.intRaw.getLsbD 1 = true ∧ u.intRaw.getLsbD 2 = true

/-- While rst_n = 0 every element holds its reset value, the edge's events are dropped, tx_valid = 0 and irq = 0, and a
bus read returns 0 (70_reset_and_hazards.md R260, R261). The pending edge and the kept read data are the model's own:
assumption log 1, 4 and 5. -/
def Obligations.ResetHoldsEveryElement : Prop :=
  ∀ (s : State) (c : Cycle) (rest : List Cycle), s.inputs = c :: rest → c.rstN = false →
    ∃ t, step s = .next t ∧ t.inputs = rest ∧ t.cfg = 0x5 ∧ t.variant = 0x47 ∧ t.hdrWin = 0x12C00FA0 ∧
      t.b0Win = 0x02BC015E ∧ t.b1Win = 0x073A015E ∧ t.stopWin = 0x15E01324 ∧ t.txHdr = 0x11301130 ∧
      t.txB0 = 0x021C021C ∧ t.txB1 = 0x0654021C ∧ t.txStop = 0x1464021C ∧ t.txTrl0 = 0 ∧ t.txTrl1 = 0 ∧ t.err = 0 ∧
      t.intRaw = 0 ∧ t.intEna = 0 ∧ t.result = 0 ∧ t.resultRaw = 0 ∧ t.rx.isOpen = false ∧ t.rx.shift = 0 ∧
      t.rx.nbits = 0 ∧ t.rx.count = 0 ∧ t.rx.lastSym = .noPair ∧ (∀ k, Memory.read t.rx.buf k = 0) ∧
      t.tx.busy = false ∧ t.tx.frame = 0 ∧ t.tx.slot = 0 ∧ t.tx.pairs = 0 ∧ t.tx.latch = ⟨0, 0, 0⟩ ∧
      t.tx.snap = ⟨⟨0, 0⟩, ⟨0, 0⟩, ⟨0, 0⟩, ⟨0, 0⟩, 0, false, Vector.replicate 6 0⟩ ∧ t.tx.valid = false ∧ t.tx.word = 0 ∧
      t.rdata = 0 ∧ irq t = false

/-- Every step answers a next state: the block never halts and goes on accepting every event (60_exceptions.md R230,
R240). -/
def Obligations.EveryStepAnswersNext : Prop := ∀ s : State, ∃ t, step s = .next t

/-! ## The classifier -/

/-- The classifier at the reset windows, as a table of durations (40_classifier.md R119, R112), seen in STATUS.LAST_SYM
after RX_PAIR (41_assembler.md R137). -/
def Obligations.ClassifyAtResetWindows : Prop :=
  ∀ (p : PulsePair) (s : State), s.hdrWin = 0x12C00FA0 → s.b0Win = 0x02BC015E → s.b1Win = 0x073A015E →
    s.stopWin = 0x15E01324 →
    ∃ t, exec (.rxPair p) s = .next t ∧
      (¬(p.l0 = .mark ∧ p.l1 = .space) → t.rx.lastSym = .noise) ∧
      (p.l0 = .mark → p.l1 = .space →
        ((4000 ≤ p.d0.toNat ∧ p.d0.toNat ≤ 4800) ∧ (4000 ≤ p.d1.toNat ∧ p.d1.toNat ≤ 4800) → t.rx.lastSym = .header) ∧
        (¬((4000 ≤ p.d0.toNat ∧ p.d0.toNat ≤ 4800) ∧ (4000 ≤ p.d1.toNat ∧ p.d1.toNat ≤ 4800)) →
          (p.d1.toNat ≤ 349 → t.rx.lastSym = .noise) ∧
          (350 ≤ p.d1.toNat ∧ p.d1.toNat ≤ 700 → t.rx.lastSym = .bit0) ∧
          (701 ≤ p.d1.toNat ∧ p.d1.toNat ≤ 1850 → t.rx.lastSym = .bit1) ∧
          (1851 ≤ p.d1.toNat ∧ p.d1.toNat ≤ 4899 → t.rx.lastSym = .noise) ∧
          (4900 ≤ p.d1.toNat ∧ p.d1.toNat ≤ 5600 → t.rx.lastSym = .stop) ∧
          (5601 ≤ p.d1.toNat → t.rx.lastSym = .noise)))

/-- The classifier for any windows: a pair that fails the polarity check is NOISE whatever its durations (R112); then the
first of Header, Bit 0, Bit 1, Stop whose window holds (R113). LO is bits [14:0] of a window register and HI bits [30:16],
both inclusive (R111, 10_state.md R25). -/
def Obligations.ClassifierIsFirstMatch : Prop :=
  ∀ (p : PulsePair) (s : State),
    let within (d : Dur) (w : Word) : Prop := w.toNat % 2 ^ 15 ≤ d.toNat ∧ d.toNat ≤ w.toNat / 2 ^ 16 % 2 ^ 15
    let polarity := p.l0 = .mark ∧ p.l1 = .space
    let header := within p.d0 s.hdrWin ∧ within p.d1 s.hdrWin
    ∃ t, exec (.rxPair p) s = .next t ∧
      (¬polarity → t.rx.lastSym = .noise) ∧
      (polarity → header → t.rx.lastSym = .header) ∧
      (polarity → ¬header → within p.d1 s.b0Win → t.rx.lastSym = .bit0) ∧
      (polarity → ¬header → ¬within p.d1 s.b0Win → within p.d1 s.b1Win → t.rx.lastSym = .bit1) ∧
      (polarity → ¬header → ¬within p.d1 s.b0Win → ¬within p.d1 s.b1Win → within p.d1 s.stopWin →
        t.rx.lastSym = .stop) ∧
      (polarity → ¬header → ¬within p.d1 s.b0Win → ¬within p.d1 s.b1Win → ¬within p.d1 s.stopWin →
        t.rx.lastSym = .noise)

/-- With B0_WIN at its reset value, the disjoint window B1_WIN = [701, 1850] classifies every pair as the reset window
[350, 1850] does (40_classifier.md R121). -/
def Obligations.DisjointWindowsClassifyAlike : Prop :=
  ∀ (p : PulsePair) (s : State), s.b0Win = 0x02BC015E → s.b1Win = 0x073A015E →
    ∃ t u, execAll [.rxPair p] s = .next t ∧ execAll [.wrB1Win 0x073A02BD, .rxPair p] s = .next u ∧ u.b1Win = 0x073A02BD ∧
      u.rx = t.rx

/-! ## Receive operations -/

/-- RX_PAIR: the capture opens if none was (R130); a pair that is no bit changes the last symbol only (R136); a bit is
shifted in (R132); the eighth completes a byte at index rx.count if that is below 32 and raises RX_OVF otherwise (R131,
R137). Every other byte, register and path is unchanged. -/
def Obligations.RxPairEffect : Prop :=
  ∀ (p : PulsePair) (s : State),
    let r : RxState := if s.rx.isOpen then s.rx else ⟨true, 0, 0, 0, [], .noPair⟩
    let sym := classify s p
    let b : Nat := if sym = .bit1 then 1 else 0
    ∃ t, exec (.rxPair p) s = .next t ∧ t = { s with rx := t.rx, err := t.err, intRaw := t.intRaw } ∧
      t.rx.isOpen = true ∧ t.rx.lastSym = sym ∧
      (sym ≠ .bit0 ∧ sym ≠ .bit1 → t.rx = { r with lastSym := sym } ∧ t.err = s.err ∧ t.intRaw = s.intRaw) ∧
      (sym = .bit0 ∨ sym = .bit1 → r.nbits.toNat < 7 →
        t.rx.shift.toNat = (2 * r.shift.toNat + b) % 256 ∧ t.rx.nbits.toNat = r.nbits.toNat + 1 ∧ t.rx.count = r.count ∧
        (∀ a, Memory.read t.rx.buf a = Memory.read r.buf a) ∧ t.err = s.err ∧ t.intRaw = s.intRaw) ∧
      (sym = .bit0 ∨ sym = .bit1 → r.nbits.toNat = 7 →
        t.rx.shift = 0 ∧ t.rx.nbits = 0 ∧ t.rx.count.toNat = min (r.count.toNat + 1) 65535) ∧
      (sym = .bit0 ∨ sym = .bit1 → r.nbits.toNat = 7 → ∀ a, appendAddr r = some a → Memory.wf r.buf →
        a = r.count.toNat ∧ (Memory.read t.rx.buf a).toNat = (2 * r.shift.toNat + b) % 256 ∧
        (∀ k, k ≠ a → Memory.read t.rx.buf k = Memory.read r.buf k) ∧ t.err = s.err ∧ t.intRaw = s.intRaw) ∧
      (sym = .bit0 ∨ sym = .bit1 → r.nbits.toNat = 7 → appendAddr r = none →
        32 ≤ r.count.toNat ∧ (∀ k, Memory.read t.rx.buf k = Memory.read r.buf k) ∧ t.err = s.err ||| 0x08 ∧
        t.intRaw = s.intRaw ||| 0x4)

/-- RX_END: an open or an empty capture is closed, a partial byte is padded with 0 and appended, RX_DONE is raised, and
nothing but the receive path, the results and the two bookkeeping registers changes (41_assembler.md R138, R134, R131). -/
def Obligations.RxEndEffect : Prop :=
  ∀ (d : Word) (s : State),
    let r : RxState := if s.rx.isOpen then s.rx else ⟨true, 0, 0, 0, [], .noPair⟩
    ∃ t, exec (.rxEnd d) s = .next t ∧
      t = { s with rx := t.rx, result := t.result, resultRaw := t.resultRaw, err := t.err, intRaw := t.intRaw } ∧
      t.rx.isOpen = false ∧ t.rx.lastSym = r.lastSym ∧ t.intRaw.getLsbD 0 = true ∧ t.rx.nbits = 0 ∧
      (r.nbits = 0 → t.rx = { r with isOpen := false } ∧ t.err = s.err ∧ t.intRaw = s.intRaw ||| 0x1) ∧
      (r.nbits ≠ 0 → t.rx.shift = 0 ∧ t.rx.count.toNat = min (r.count.toNat + 1) 65535) ∧
      (r.nbits ≠ 0 → ∀ a, appendAddr r = some a → Memory.wf r.buf →
        a = r.count.toNat ∧ (Memory.read t.rx.buf a).toNat = r.shift.toNat * 2 ^ (8 - r.nbits.toNat) % 256 ∧
        (∀ k, k ≠ a → Memory.read t.rx.buf k = Memory.read r.buf k) ∧ t.err = s.err ∧ t.intRaw = s.intRaw ||| 0x1) ∧
      (r.nbits ≠ 0 → appendAddr r = none →
        32 ≤ r.count.toNat ∧ (∀ k, Memory.read t.rx.buf k = Memory.read r.buf k) ∧ t.err = s.err ||| 0x08 ∧
        t.intRaw = s.intRaw ||| 0x5)

/-- What RX_END decodes, in the precedence of 42_interpreter.md R150 (R151 to R158), in terms of the capture it leaves for
the host to read: byte count, bytes 0 to 5, CFG.CHK_CMPL and VARIANT. Settings are a statement of their own. -/
def Obligations.RxEndResultPrecedence : Prop :=
  ∀ (d : Word) (s : State), ∃ t, exec (.rxEnd d) s = .next t ∧
    let b (k : Nat) : Nat := (Memory.read t.rx.buf k).toNat
    let n := t.rx.count.toNat
    let mismatch := s.cfg.getLsbD 0 = true ∧ ¬(b 1 = 255 - b 0 ∧ b 3 = 255 - b 2 ∧ b 5 = 255 - b 4)
    let pwrOff := s.variant.getLsbD 0 = true ∧ b 2 = 0x7B ∧ b 4 = 0xE0
    let swAuto := s.variant.getLsbD 1 = true ∧ b 2 = 0xF5 ∧ b 4 = 0x04
    let swMan := s.variant.getLsbD 2 = true ∧ b 2 = 0xF5 ∧ b 4 = 0x05
    let swLr := s.variant.getLsbD 3 = true ∧ b 2 = 0x6B ∧ b 4 = 0xE0
    let other := s.variant.getLsbD 4 = true ∧ b 0 = 0xB5 ∧ b 2 = 0xF5
    (n = 0 → t.result = 0x1 ∧ t.resultRaw = 0) ∧
    (1 ≤ n ∧ n ≤ 5 → t.result = 0xE ∧ t.resultRaw = 0) ∧
    (6 ≤ n → mismatch → t.result = 0x16 ∧ t.resultRaw = 0) ∧
    (6 ≤ n → ¬mismatch → pwrOff → t.result = 0x2 ∧ t.resultRaw = 0) ∧
    (6 ≤ n → ¬mismatch → ¬pwrOff → swAuto → t.result = 0x3 ∧ t.resultRaw = 0) ∧
    (6 ≤ n → ¬mismatch → ¬pwrOff → ¬swAuto → swMan → t.result = 0x4 ∧ t.resultRaw = 0) ∧
    (6 ≤ n → ¬mismatch → ¬pwrOff → ¬swAuto → ¬swMan → swLr → t.result = 0x5 ∧ t.resultRaw = 0) ∧
    (6 ≤ n → ¬mismatch → ¬pwrOff → ¬swAuto → ¬swMan → ¬swLr → other → t.result = 0x6 ∧ t.resultRaw = 0) ∧
    (6 ≤ n → ¬mismatch → ¬pwrOff → ¬swAuto → ¬swMan → ¬swLr → ¬other → t.result.extractLsb' 0 3 = 7)

/-- The fields of a SETTINGS result: the codes b2[7:5], b4[3:2] and b4[7:4] (42_interpreter.md R160), the fan table (R161),
the mode table (R162), the temperature table (R163), RESULT_RAW (10_state.md R41), and every other field 0. -/
def Obligations.SettingsFields : Prop :=
  ∀ (d : Word) (s : State), ∃ t, exec (.rxEnd d) s = .next t ∧
    (t.result.extractLsb' 0 3 = 7 →
      let b2 := (Memory.read t.rx.buf 2).toNat
      let b4 := (Memory.read t.rx.buf 4).toNat
      let fanCode := b2 / 32
      let modeCode := b4 / 4 % 4
      let tempCode := b4 / 16
      let fan := (t.result.extractLsb' 5 3).toNat
      let mode := (t.result.extractLsb' 9 2).toNat
      let temp := (t.result.extractLsb' 16 8).toNat
      t.resultRaw.toNat = fanCode + 16 * modeCode + 256 * tempCode ∧
      t.result &&& 0xFF00E018 = 0 ∧
      (fan, t.result.getLsbD 8) =
        (if fanCode = 5 then (0, false) else if fanCode = 4 then (1, false) else if fanCode = 2 then (2, false)
        else if fanCode = 1 then (3, false) else if fanCode = 0 ∧ s.variant.getLsbD 6 = true then (4, false)
        else (0, true)) ∧
      mode = (if modeCode = 2 then 0 else if modeCode = 0 then 1 else if modeCode = 1 then 2 else 3) ∧
      (tempCode < 14 → t.result.getLsbD 11 = true ∧ t.result.getLsbD 12 = false ∧
        [17, 18, 20, 19, 24, 23, 21, 22, 28, 27, 29, 30, 25, 26][tempCode]? = some temp) ∧
      (14 ≤ tempCode → s.variant.getLsbD 5 = false →
        t.result.getLsbD 11 = false ∧ t.result.getLsbD 12 = false ∧ temp = 0) ∧
      (tempCode = 14 → s.variant.getLsbD 5 = true →
        t.result.getLsbD 11 = true ∧ t.result.getLsbD 12 = true ∧ temp = 31) ∧
      (tempCode = 15 → s.variant.getLsbD 5 = true →
        t.result.getLsbD 11 = true ∧ t.result.getLsbD 12 = false ∧ temp = 16))

/-- The PowerOff property (42_interpreter.md R166), of every capture of six or more bytes with bytes 2 and 4 equal to 7B and
E0, as RX_END leaves it: with CHK_CMPL = 0 the result is POWER_OFF whatever the other bytes are; with CHK_CMPL = 1 only for
b1 = not8(b0), b3 = 84 and b5 = 1F, and it is UNRECOGNIZED/COMPLEMENT otherwise. -/
def Obligations.PowerOffProperty : Prop :=
  ∀ (d : Word) (s : State), s.variant.getLsbD 0 = true → ∃ t, exec (.rxEnd d) s = .next t ∧
    let b (k : Nat) : Byte := Memory.read t.rx.buf k
    (6 ≤ t.rx.count.toNat → b 2 = 0x7B → b 4 = 0xE0 →
      (s.cfg.getLsbD 0 = false → t.result = 0x2) ∧
      (s.cfg.getLsbD 0 = true → b 1 = ~~~(b 0) → b 3 = 0x84 → b 5 = 0x1F → t.result = 0x2) ∧
      (s.cfg.getLsbD 0 = true → b 1 ≠ ~~~(b 0) ∨ b 3 ≠ 0x84 ∨ b 5 ≠ 0x1F → t.result = 0x16))

/-- The decode reads no byte beyond RxBuf[5]: two captures of six or more bytes that agree on bytes 0 to 5 once RX_END has
closed them, under the same CHK_CMPL and VARIANT, give the same results, whatever follows (42_interpreter.md R164). -/
def Obligations.DecodeReadsOnlySixBytes : Prop :=
  ∀ (d : Word) (s s' : State), s'.cfg.getLsbD 0 = s.cfg.getLsbD 0 → s'.variant = s.variant →
    ∃ t t', exec (.rxEnd d) s = .next t ∧ exec (.rxEnd d) s' = .next t' ∧
      (6 ≤ t.rx.count.toNat → 6 ≤ t'.rx.count.toNat →
        (∀ k, k < 6 → Memory.read t'.rx.buf k = Memory.read t.rx.buf k) →
        t'.result = t.result ∧ t'.resultRaw = t.resultRaw)

/-- RX_NODATA: every RX element is cleared, the result is NO_FRAME, RX_DONE is raised, nothing else changes
(41_assembler.md R139). -/
def Obligations.RxNodataEffect : Prop :=
  ∀ (d : Word) (s : State), ∃ t, exec (.rxNodata d) s = .next t ∧
    t = { s with rx := t.rx, result := 0x1, resultRaw := 0, intRaw := s.intRaw ||| 0x1 } ∧ t.rx.isOpen = false ∧
    t.rx.shift = 0 ∧ t.rx.nbits = 0 ∧ t.rx.count = 0 ∧ t.rx.lastSym = .noPair ∧ ∀ k, Memory.read t.rx.buf k = 0

/-- RX_NODATA differs from RX_END on an empty capture in the last symbol only (41_assembler.md R139). A capture is empty
when it holds no byte and no partial byte; the buffer and the shift register are then 0 by the invariant ReceiveOk. -/
def Obligations.NodataLikeEmptyEnd : Prop :=
  ∀ (d : Word) (s : State), ReceiveOk s.rx → s.rx.isOpen = true → s.rx.count = 0 → s.rx.nbits = 0 →
    ∃ t u, exec (.rxEnd d) s = .next t ∧ exec (.rxNodata d) s = .next u ∧ t.rx.lastSym = s.rx.lastSym ∧
      u = { t with rx := { t.rx with lastSym := .noPair } }

/-- RX_RSVD sets ERR.RX_ILL_OP and INT_RAW.ERR and nothing else; its DATA is ignored (41_assembler.md R141). -/
def Obligations.RxRsvdEffect : Prop :=
  ∀ (d : Word) (s : State), ∃ t, exec (.rxRsvd d) s = .next t ∧ t = { s with err := t.err, intRaw := t.intRaw } ∧
    (∀ k, t.err.getLsbD k = (s.err.getLsbD k || k == 4)) ∧ ∀ k, t.intRaw.getLsbD k = (s.intRaw.getLsbD k || k == 2)

/-- The packing law and the count law (41_assembler.md R133, R135, with R131 and R134): for any pairs fed to a closed
capture and then RX_END, with b0, b1, … the bits among them in order and 0 after the last, byte k of the buffer is
Σ b(8k+j)·2^(7-j) for every k below 32, and the count is ceil(n/8), saturating. -/
def Obligations.PackingAndCountLaw : Prop :=
  ∀ (ps : List PulsePair) (d : Word) (s : State), s.rx.isOpen = false →
    let bits : List Bool := ps.filterMap fun p =>
      if classify s p = .bit0 then some false else if classify s p = .bit1 then some true else none
    ∃ t, execAll (ps.map .rxPair ++ [.rxEnd d]) s = .next t ∧ t.rx.isOpen = false ∧
      t.rx.count.toNat = min ((bits.length + 7) / 8) 65535 ∧
      ∀ k, k < 32 → (Memory.read t.rx.buf k).toNat =
        ((List.range 8).map fun j => (bits.getD (8 * k + j) false).toNat * 2 ^ (7 - j)).sum

/-- One repetition, fed as `rx.frame A, B, C` at the reset windows and closed, is the six bytes A, A', B, B', C, C', and it
passes the complement check (30_encoding.md R98, 20_memory.md R65, 42_interpreter.md R153). -/
def Obligations.RxFrameGivesItsBytes : Prop :=
  ∀ (a b c : Byte) (d : Word) (s : State), s.rx.isOpen = false → s.hdrWin = 0x12C00FA0 → s.b0Win = 0x02BC015E →
    s.b1Win = 0x073A015E → s.stopWin = 0x15E01324 →
    ∃ t, execAll (rxFrame a b c ++ [.rxEnd d]) s = .next t ∧ t.rx.count = 6 ∧ t.rx.lastSym = .stop ∧
      [0, 1, 2, 3, 4, 5].map (fun k => Memory.read t.rx.buf k) = [a, ~~~a, b, ~~~b, c, ~~~c] ∧ t.result ≠ 0x16

/-- No decode depends on a previous capture (41_assembler.md R143): from two closed states with the same windows, CHK_CMPL
and VARIANT, the same pairs and an END leave the same receive state and the same results. -/
def Obligations.NoDecodeDependsOnAnEarlierCapture : Prop :=
  ∀ (ps : List PulsePair) (d : Word) (s s' : State), s.rx.isOpen = false → s'.rx.isOpen = false →
    s'.hdrWin = s.hdrWin → s'.b0Win = s.b0Win → s'.b1Win = s.b1Win → s'.stopWin = s.stopWin →
    s'.cfg.getLsbD 0 = s.cfg.getLsbD 0 → s'.variant = s.variant →
    ∃ t t', execAll (ps.map .rxPair ++ [.rxEnd d]) s = .next t ∧ execAll (ps.map .rxPair ++ [.rxEnd d]) s' = .next t' ∧
      t'.rx = t.rx ∧ t'.result = t.result ∧ t'.resultRaw = t.resultRaw

/-! ## Transmit operations -/

/-- TX_START while idle (43_builder.md R190): the triple is latched, the configuration is snapshot, the position is (0, 0)
and the Header of TX_HDR is presented; nothing outside the transmit path changes. -/
def Obligations.TxStartAccepted : Prop :=
  ∀ (c b a : Byte) (ign : BitVec 4) (s : State), s.tx.busy = false →
    let pairOf (w : Word) (q : DurPair) : Prop :=
      q.mark.toNat = w.toNat % 2 ^ 15 ∧ q.space.toNat = w.toNat / 2 ^ 16 % 2 ^ 15
    ∃ t, exec (.cmdTxStart c b a ign) s = .next t ∧ t = { s with tx := t.tx } ∧ t.tx.busy = true ∧
      t.tx.latch.a = a ∧ t.tx.latch.b = b ∧ t.tx.latch.c = c ∧
      pairOf s.txHdr t.tx.snap.hdr ∧ pairOf s.txB0 t.tx.snap.b0 ∧ pairOf s.txB1 t.tx.snap.b1 ∧
      pairOf s.txStop t.tx.snap.stop ∧ t.tx.snap.reps.toNat = s.cfg.toNat / 2 % 4 ∧
      t.tx.snap.trlEn = s.cfg.getLsbD 3 ∧
      (∀ k, k < 4 → (t.tx.snap.trl.getD k 0).toNat = s.txTrl0.toNat / 256 ^ k % 256) ∧
      (t.tx.snap.trl.getD 4 0).toNat = s.txTrl1.toNat % 256 ∧ (t.tx.snap.trl.getD 5 0).toNat = s.txTrl1.toNat / 256 % 256 ∧
      t.tx.frame = 0 ∧ t.tx.slot = 0 ∧ t.tx.pairs = 0 ∧ t.tx.valid = true ∧
      t.tx.word.toNat = t.tx.snap.hdr.space.toNat * 65536 + 32768 + t.tx.snap.hdr.mark.toNat

/-- TX_START while busy is dropped: it raises TX_BUSY_START and changes nothing else (43_builder.md R191). -/
def Obligations.TxStartWhileBusyDropped : Prop :=
  ∀ (c b a : Byte) (ign : BitVec 4) (s : State), s.tx.busy = true →
    ∃ t, exec (.cmdTxStart c b a ign) s = .next t ∧ t = { s with err := t.err, intRaw := t.intRaw } ∧
      (∀ k, t.err.getLsbD k = (s.err.getLsbD k || k == 1)) ∧ ∀ k, t.intRaw.getLsbD k = (s.intRaw.getLsbD k || k == 2)

/-- CMD_NOP and WR_IGNORED change nothing, whatever their ignored bits; CMD_ILLEGAL sets ERR.ILL_CMD and INT_RAW.ERR and
nothing else, busy or idle (43_builder.md R193, R192; 44_host_bus.md R211). -/
def Obligations.CommandsWithoutEffect : Prop :=
  (∀ (ign : BitVec 28) (s : State), exec (.cmdNop ign) s = .next s) ∧
  (∀ (w : WAddr) (d : Word) (s : State), exec (.wrIgnored w d) s = .next s) ∧
  (∀ (ign : BitVec 28) (op : BitVec 4) (s : State), ∃ t, exec (.cmdIllegal ign op) s = .next t ∧
    t = { s with err := t.err, intRaw := t.intRaw } ∧ (∀ k, t.err.getLsbD k = (s.err.getLsbD k || k == 0)) ∧
    ∀ k, t.intRaw.getLsbD k = (s.intRaw.getLsbD k || k == 2))

/-- TX_DONE while busy (43_builder.md R194, R189): the pair is counted; inside a frame the next slot's word is presented,
after slot 49 the next frame's Header, and after the last frame's slot 49 the sequence ends with TX_DONE. Nothing outside
the transmit path and INT_RAW changes. -/
def Obligations.TxDoneAdvances : Prop :=
  ∀ s : State, s.tx.busy = true → ∃ t, exec .txDone s = .next t ∧ t = { s with tx := t.tx, intRaw := t.intRaw } ∧
    t.tx.pairs = s.tx.pairs + 1 ∧ t.tx.latch = s.tx.latch ∧ t.tx.snap = s.tx.snap ∧
    (s.tx.slot.toNat < 49 → t.tx.busy = true ∧ t.tx.valid = true ∧ t.tx.frame = s.tx.frame ∧
      t.tx.slot.toNat = s.tx.slot.toNat + 1 ∧ t.tx.word = pairWord s.tx s.tx.frame.toNat (s.tx.slot.toNat + 1) ∧
      t.intRaw = s.intRaw) ∧
    (49 ≤ s.tx.slot.toNat → s.tx.frame.toNat + 1 < s.tx.snap.reps.toNat + s.tx.snap.trlEn.toNat →
      t.tx.busy = true ∧ t.tx.valid = true ∧ t.tx.frame.toNat = s.tx.frame.toNat + 1 ∧ t.tx.slot = 0 ∧
      t.tx.word = pairWord s.tx (s.tx.frame.toNat + 1) 0 ∧ t.intRaw = s.intRaw) ∧
    (49 ≤ s.tx.slot.toNat → s.tx.snap.reps.toNat + s.tx.snap.trlEn.toNat ≤ s.tx.frame.toNat + 1 →
      t.tx.busy = false ∧ t.tx.valid = false ∧ t.tx.word = 0 ∧ t.tx.frame = 0 ∧ t.tx.slot = 0 ∧
      ∀ k, t.intRaw.getLsbD k = (s.intRaw.getLsbD k || k == 1))

/-- The word presented for each slot (43_builder.md R181, R184, R185, R186): slot 0 the Header, slot 49 the Stop, slot n in
1 to 48 the Bit 1 or Bit 0 pair by bit 7 - ((n-1) mod 8) of byte (n-1) div 8 of the frame, whose bytes are
A, A', B, B', C, C' before frame `repeat` and the trailer bytes as stored from there on. -/
def Obligations.SlotWords : Prop :=
  ∀ (x : TxState) (f n : Nat), n ≤ 49 →
    let bytes : List Nat :=
      if f < x.snap.reps.toNat then
        [x.latch.a.toNat, 255 - x.latch.a.toNat, x.latch.b.toNat, 255 - x.latch.b.toNat, x.latch.c.toNat,
          255 - x.latch.c.toNat]
      else [0, 1, 2, 3, 4, 5].map fun k => (x.snap.trl.getD k 0).toNat
    let one := (bytes.getD ((n - 1) / 8) 0).testBit (7 - (n - 1) % 8)
    let q : DurPair := if n = 0 then x.snap.hdr else if n = 49 then x.snap.stop else if one then x.snap.b1 else x.snap.b0
    (pairWord x f n).toNat = q.space.toNat * 65536 + 32768 + q.mark.toNat

/-- TX_FAIL while busy ends the sequence, sets ERR.TX_FAIL and INT_RAW.ERR, and keeps the position, the pair count, the
latch and the snapshot; TX_DONE of INT_RAW is not set (43_builder.md R195). -/
def Obligations.TxFailEndsSequence : Prop :=
  ∀ s : State, s.tx.busy = true → ∃ t, exec .txFail s = .next t ∧
    t = { s with tx := { s.tx with busy := false, valid := false, word := 0 }, err := t.err, intRaw := t.intRaw } ∧
    (∀ k, t.err.getLsbD k = (s.err.getLsbD k || k == 2)) ∧ ∀ k, t.intRaw.getLsbD k = (s.intRaw.getLsbD k || k == 2)

/-- A TX response while idle, DONE or FAIL, raises TX_SPURIOUS and changes nothing else (43_builder.md R196). -/
def Obligations.ResponseWhileIdleIsSpurious : Prop :=
  ∀ (i : Instr) (s : State), i = .txDone ∨ i = .txFail → s.tx.busy = false →
    ∃ t, exec i s = .next t ∧ t = { s with err := t.err, intRaw := t.intRaw } ∧
      (∀ k, t.err.getLsbD k = (s.err.getLsbD k || k == 5)) ∧ ∀ k, t.intRaw.getLsbD k = (s.intRaw.getLsbD k || k == 2)

/-- The sequence law (43_builder.md R187): after an accepted TX_START, and whatever other events but a FAIL fall between
the DONE responses, k DONEs present the word of slot (k div 50, k mod 50), for every k below 50·nframes, and the DONE
after the last one ends the sequence. The premise on REPEAT is part of the invariant RegistersOk. -/
def Obligations.SequenceLaw : Prop :=
  ∀ (c b a : Byte) (ign : BitVec 4) (s : State), s.tx.busy = false → cfgRepeat s.cfg ≠ 0 →
    let n := s.cfg.toNat / 2 % 4 + (s.cfg.getLsbD 3).toNat
    ∃ x, exec (.cmdTxStart c b a ign) s = .next x ∧
      ∀ es : List Instr, Instr.txFail ∉ es → es.count .txDone < 50 * n →
        ∃ t, execAll es x = .next t ∧ t.tx.busy = true ∧ t.tx.valid = true ∧
          t.tx.frame.toNat = es.count .txDone / 50 ∧ t.tx.slot.toNat = es.count .txDone % 50 ∧
          t.tx.pairs.toNat = es.count .txDone ∧
          t.tx.word = pairWord x.tx (es.count .txDone / 50) (es.count .txDone % 50) ∧
          (es.count .txDone + 1 = 50 * n → ∃ u, exec .txDone t = .next u ∧ u.tx.busy = false ∧ u.tx.valid = false ∧
            u.tx.word = 0 ∧ u.tx.frame = 0 ∧ u.tx.slot = 0 ∧ u.tx.pairs.toNat = 50 * n ∧ u.intRaw.getLsbD 1 = true)

/-- No cancellation (43_builder.md R197): while busy, every event but a TX response leaves the whole transmit path as it
is. -/
def Obligations.NoCancellation : Prop :=
  ∀ (i : Instr) (s : State), s.tx.busy = true → i ≠ .txDone → i ≠ .txFail → ∃ t, exec i s = .next t ∧ t.tx = s.tx

/-- A running sequence reads only the snapshot and the latch (10_state.md R49, 20_memory.md R73): from two states with the
same transmit path, whatever their configuration and the rest, a TX response leaves the same transmit path. -/
def Obligations.RunningSequenceReadsOnlySnapshot : Prop :=
  ∀ (i : Instr) (s s' : State), i = .txDone ∨ i = .txFail → s'.tx = s.tx →
    ∃ t t', exec i s = .next t ∧ exec i s' = .next t' ∧ t'.tx = t.tx

/-- The balance law (43_builder.md R199): an A/B/C repetition has 24 Bit 1 slots and 24 Bit 0 slots whatever the triple, so
its length in ticks depends on the durations only: 92,320 ticks at the reset durations. -/
def Obligations.BalanceLaw : Prop :=
  ∀ (x : TxState) (f : Nat), f < x.snap.reps.toNat →
    let ticks (q : DurPair) : Nat := q.mark.toNat + q.space.toNat
    let length : Nat := ((List.range 50).map fun n => ticks (slotPair x f n)).sum
    ((List.range 48).filter fun k => slotBit x f (k + 1)).length = 24 ∧
    length = ticks x.snap.hdr + 24 * ticks x.snap.b1 + 24 * ticks x.snap.b0 + ticks x.snap.stop ∧
    (x.snap.hdr = durPair 0x11301130 → x.snap.b0 = durPair 0x021C021C → x.snap.b1 = durPair 0x0654021C →
      x.snap.stop = durPair 0x1464021C → length = 92320)

/-- The round-trip law (43_builder.md R198): under its classification premises, feeding every word of a sequence back to
the RX port and then END gives 6·nframes bytes, A, A', B, B', C, C' for every repetition and then the trailer bytes, a
result that passes the complement check, and a complete run. -/
def Obligations.LoopbackRoundTrip : Prop :=
  ∀ (c b a : Byte) (ign : BitVec 4) (d : Word) (s : State), s.tx.busy = false → s.rx.isOpen = false →
    cfgRepeat s.cfg ≠ 0 →
    let sent (w : Word) : Symbol := classify s (pairOfWord (wordOfDurPair (durPair w)))
    sent s.txB0 = .bit0 → sent s.txB1 = .bit1 → sent s.txHdr ≠ .bit0 → sent s.txHdr ≠ .bit1 → sent s.txStop ≠ .bit0 →
    sent s.txStop ≠ .bit1 →
    let reps := s.cfg.toNat / 2 % 4
    let n := reps + (s.cfg.getLsbD 3).toNat
    ∃ x y t, exec (.cmdTxStart c b a ign) s = .next x ∧ loopback (50 * n) x = .next y ∧ exec (.rxEnd d) y = .next t ∧
      t.complete = true ∧ t.rx.count.toNat = 6 * n ∧
      (∀ j, j < reps → [0, 1, 2, 3, 4, 5].map (fun k => Memory.read t.rx.buf (6 * j + k)) =
        [a, ~~~a, b, ~~~b, c, ~~~c]) ∧
      (s.cfg.getLsbD 3 = true → [0, 1, 2, 3, 4, 5].map (fun k => Memory.read t.rx.buf (6 * reps + k)) =
        [byteOf s.txTrl0 0, byteOf s.txTrl0 1, byteOf s.txTrl0 2, byteOf s.txTrl0 3, byteOf s.txTrl1 0,
          byteOf s.txTrl1 1]) ∧
      t.result ≠ 0x16 ∧ t.result ≠ 0x1 ∧ t.result ≠ 0xE

/-! ## Host bus -/

/-- BUS_READ (44_host_bus.md R210): what each word returns, field by field for STATUS, TX_POS, TX_LATCH and RX_BYTES
(10_state.md R36, R42 to R45); reserved words and CMD return 0. The value returned is the field rdata after the read:
assumption log 5. -/
def Obligations.BusReadMap : Prop :=
  ∀ (a : WAddr) (d : Word) (s : State), ∃ t, exec (.busRead a d) s = .next t ∧
    (∀ e ∈ [(0, s.cfg), (1, s.variant), (2, s.hdrWin), (3, s.b0Win), (4, s.b1Win), (5, s.stopWin), (6, s.txHdr),
      (7, s.txB0), (8, s.txB1), (9, s.txStop), (10, s.txTrl0), (11, s.txTrl1), (12, 0), (14, s.err), (15, s.intRaw),
      (16, s.intEna), (17, s.result), (18, s.resultRaw)], a.toNat = e.1 → t.rdata = e.2) ∧
    (a.toNat = 13 → t.rdata.toNat = s.rx.shift.toNat * 256 + (symbolCode s.rx.lastSym).toNat * 32 + s.rx.nbits.toNat * 4 +
      s.tx.busy.toNat * 2 + s.rx.isOpen.toNat) ∧
    (a.toNat = 19 → t.rdata.toNat = s.rx.count.toNat) ∧
    (a.toNat = 20 → t.rdata.toNat = s.tx.pairs.toNat * 256 + s.tx.frame.toNat * 64 + s.tx.slot.toNat) ∧
    (a.toNat = 21 → t.rdata.toNat = s.tx.latch.c.toNat * 65536 + s.tx.latch.b.toNat * 256 + s.tx.latch.a.toNat) ∧
    (22 ≤ a.toNat ∧ a.toNat ≤ 31 → t.rdata = 0) ∧
    (∀ i, i < 8 → a.toNat = 32 + i → ∀ j, j < 4 → byteOf t.rdata j = Memory.read s.rx.buf (4 * i + j)) ∧
    (40 ≤ a.toNat → t.rdata = 0)

/-- No read has a side effect (44_host_bus.md R228, 20_memory.md R67): a read changes the read data and nothing else, and
reading the same word again returns the same value. The read data is the field rdata: assumption log 5. -/
def Obligations.ReadsHaveNoSideEffect : Prop :=
  ∀ (a : WAddr) (d d' : Word) (s : State), ∃ t, exec (.busRead a d) s = .next t ∧ t = { s with rdata := t.rdata } ∧
    exec (.busRead a d') t = .next t

/-- The write-then-read law (44_host_bus.md R229): a register written with v reads back v masked by its write mask, CFG as
its own formula says, and a W1C register reads back its old value with the bits written as 1 cleared. -/
def Obligations.WriteThenReadLaw : Prop :=
  ∀ (v d : Word) (s : State),
    (∀ e ∈ [((1 : WAddr), Instr.wrVariant v, (0x7F : Word)), (2, .wrHdrWin v, 0x7FFF7FFF), (3, .wrB0Win v, 0x7FFF7FFF),
      (4, .wrB1Win v, 0x7FFF7FFF), (5, .wrStopWin v, 0x7FFF7FFF), (6, .wrTxHdr v, 0x7FFF7FFF), (7, .wrTxB0 v, 0x7FFF7FFF),
      (8, .wrTxB1 v, 0x7FFF7FFF), (9, .wrTxStop v, 0x7FFF7FFF), (10, .wrTxTrl0 v, 0xFFFFFFFF),
      (11, .wrTxTrl1 v, 0x0000FFFF), (16, .wrIntEna v, 0x7)],
      ∃ t, execAll [e.2.1, .busRead e.1 d] s = .next t ∧ t.rdata = v &&& e.2.2) ∧
    (∃ t, execAll [.wrCfg v, .busRead 0 d] s = .next t ∧
      t.rdata.toNat = v.toNat % 2 + 2 * (if v.toNat / 2 % 4 ≠ 0 then v.toNat / 2 % 4 else s.cfg.toNat / 2 % 4) +
        8 * (v.toNat / 8 % 2)) ∧
    (∃ t, execAll [.wrErr v, .busRead 14 d] s = .next t ∧ t.rdata = s.err &&& ~~~(v &&& 0x3F)) ∧
    (∃ t, execAll [.wrIntRaw v, .busRead 15 d] s = .next t ∧ t.rdata = s.intRaw &&& ~~~(v &&& 0x7))

/-- Each register write gives its register the value of its rule and changes nothing else (44_host_bus.md R212 to R226):
the masks of the reserved bits, CFG field by field with REPEAT kept on a write of 0, and W1C for ERR and INT_RAW. -/
def Obligations.RegisterWriteResults : Prop :=
  ∀ (v : Word) (s : State),
    (∃ t, exec (.wrCfg v) s = .next t ∧ t = { s with cfg := t.cfg } ∧ cfgChkCmpl t.cfg = v.getLsbD 0 ∧
      cfgTrlEn t.cfg = v.getLsbD 3 ∧
      (v.toNat / 2 % 4 ≠ 0 → (cfgRepeat t.cfg).toNat = v.toNat / 2 % 4) ∧
      (v.toNat / 2 % 4 = 0 → cfgRepeat t.cfg = cfgRepeat s.cfg) ∧ ∀ k, 4 ≤ k → t.cfg.getLsbD k = false) ∧
    exec (.wrVariant v) s = .next { s with variant := v &&& 0x7F } ∧
    exec (.wrHdrWin v) s = .next { s with hdrWin := v &&& 0x7FFF7FFF } ∧
    exec (.wrB0Win v) s = .next { s with b0Win := v &&& 0x7FFF7FFF } ∧
    exec (.wrB1Win v) s = .next { s with b1Win := v &&& 0x7FFF7FFF } ∧
    exec (.wrStopWin v) s = .next { s with stopWin := v &&& 0x7FFF7FFF } ∧
    exec (.wrTxHdr v) s = .next { s with txHdr := v &&& 0x7FFF7FFF } ∧
    exec (.wrTxB0 v) s = .next { s with txB0 := v &&& 0x7FFF7FFF } ∧
    exec (.wrTxB1 v) s = .next { s with txB1 := v &&& 0x7FFF7FFF } ∧
    exec (.wrTxStop v) s = .next { s with txStop := v &&& 0x7FFF7FFF } ∧
    exec (.wrTxTrl0 v) s = .next { s with txTrl0 := v } ∧
    exec (.wrTxTrl1 v) s = .next { s with txTrl1 := v &&& 0x0000FFFF } ∧
    exec (.wrErr v) s = .next { s with err := s.err &&& ~~~(v &&& 0x3F) } ∧
    exec (.wrIntRaw v) s = .next { s with intRaw := s.intRaw &&& ~~~(v &&& 0x7) } ∧
    exec (.wrIntEna v) s = .next { s with intEna := v &&& 0x7 }

/-- Every access is idempotent except a write to CMD (20_memory.md R67). -/
def Obligations.AccessesAreIdempotent : Prop :=
  ∀ (i : Instr) (s : State), isRegisterAccess i = true →
    ∃ t, execAll [i] s = .next t ∧ execAll [i, i] s = .next t

/-! ## Errors, interrupts and the two paths -/

/-- Each ERR bit is set only by its own cause (60_exceptions.md R232): which event newly sets it, and in which state. -/
def Obligations.ErrBitsOnlyByTheirCause : Prop :=
  ∀ (i : Instr) (s t : State), exec i s = .next t →
    let newly (k : Nat) : Prop := t.err.getLsbD k = true ∧ s.err.getLsbD k = false
    (newly 0 → ∃ ign op, i = .cmdIllegal ign op) ∧
    (newly 1 → (∃ c b a ign, i = .cmdTxStart c b a ign) ∧ s.tx.busy = true) ∧
    (newly 2 → i = .txFail ∧ s.tx.busy = true) ∧
    (newly 3 → ((∃ p, i = .rxPair p) ∨ ∃ d, i = .rxEnd d) ∧ s.rx.isOpen = true ∧ 32 ≤ s.rx.count.toNat) ∧
    (newly 4 → ∃ d, i = .rxRsvd d) ∧
    (newly 5 → (i = .txDone ∨ i = .txFail) ∧ s.tx.busy = false) ∧
    ∀ k, 6 ≤ k → ¬newly k

/-- The interrupt sources (60_exceptions.md R234, 10_state.md R38): RX_DONE is newly set only by RX_END and RX_NODATA,
TX_DONE only by the DONE of a sequence's last slot, ERR only with an ERR bit set, and no other bit ever. -/
def Obligations.InterruptSources : Prop :=
  ∀ (i : Instr) (s t : State), exec i s = .next t →
    let newly (k : Nat) : Prop := t.intRaw.getLsbD k = true ∧ s.intRaw.getLsbD k = false
    (newly 0 → (∃ d, i = .rxEnd d) ∨ ∃ d, i = .rxNodata d) ∧
    (newly 1 → i = .txDone ∧ s.tx.busy = true ∧ t.tx.busy = false) ∧
    (newly 2 → t.err ≠ 0 ∧ ∃ k, k < 6 ∧ t.err = s.err ||| BitVec.ofNat 32 (2 ^ k)) ∧
    ∀ k, 3 ≤ k → ¬newly k

/-- Only a host W1C write clears a bit of ERR or INT_RAW (60_exceptions.md R231, 10_state.md R37, R52). -/
def Obligations.OnlyHostClearsErrAndIntRaw : Prop :=
  ∀ (i : Instr) (s t : State), exec i s = .next t →
    ((∀ v, i ≠ .wrErr v) → t.err &&& s.err = s.err) ∧ ((∀ v, i ≠ .wrIntRaw v) → t.intRaw &&& s.intRaw = s.intRaw)

/-- No single event raises more than one cause (60_exceptions.md R239), and an event that sets an ERR bit sets INT_RAW.ERR
(10_state.md R38). -/
def Obligations.AtMostOneCausePerEvent : Prop :=
  ∀ (i : Instr) (s t : State), exec i s = .next t →
    (∀ j k, t.err.getLsbD j = true → s.err.getLsbD j = false → t.err.getLsbD k = true → s.err.getLsbD k = false → j = k) ∧
    (∀ k, t.err.getLsbD k = true → s.err.getLsbD k = false → t.intRaw.getLsbD 2 = true)

/-- irq is the level of INT_RAW and INT_ENA (10_state.md R51, 60_exceptions.md R236): in every state it is 1 just when a
pending bit is enabled, so a write of INT_ENA makes it 1 just when a pending bit is enabled by the value written. -/
def Obligations.IrqFollowsEnables : Prop :=
  (∀ s : State, irq s = true ↔ ∃ k, k < 3 ∧ s.intRaw.getLsbD k = true ∧ s.intEna.getLsbD k = true) ∧
  (∀ (v : Word) (s : State), ∃ t, exec (.wrIntEna v) s = .next t ∧ t.intRaw = s.intRaw ∧
    (irq t = true ↔ ∃ k, k < 3 ∧ s.intRaw.getLsbD k = true ∧ v.getLsbD k = true))

/-- The RX path and the TX path share no mutable state (00_scope.md R7, 60_exceptions.md R245): an RX event leaves the
transmit path and the configuration as they are, and a TX event the receive path, the results and the configuration. -/
def Obligations.PathsLeaveEachOtherAlone : Prop :=
  (∀ (i : Instr) (s : State), isRxEvent i = true → ∃ t, exec i s = .next t ∧
    t = { s with rx := t.rx, result := t.result, resultRaw := t.resultRaw, err := t.err, intRaw := t.intRaw }) ∧
  (∀ (i : Instr) (s : State), isTxEvent i = true → ∃ t, exec i s = .next t ∧
    t = { s with tx := t.tx, err := t.err, intRaw := t.intRaw })

/-- The two paths' events commute (00_scope.md R7): an RX event and an event of the transmit path give the same state in
either order. -/
def Obligations.PathsCommute : Prop :=
  ∀ (i j : Instr) (s : State), isRxEvent i = true → isTxEvent j = true →
    ∃ t, execAll [i, j] s = .next t ∧ execAll [j, i] s = .next t

/-- No error changes a configuration register (60_exceptions.md R250): a configuration register changes only by its own
write. -/
def Obligations.ConfigurationOnlyByItsWrite : Prop :=
  ∀ (i : Instr) (s t : State), exec i s = .next t →
    (t.cfg ≠ s.cfg → ∃ v, i = .wrCfg v) ∧ (t.variant ≠ s.variant → ∃ v, i = .wrVariant v) ∧
    (t.hdrWin ≠ s.hdrWin → ∃ v, i = .wrHdrWin v) ∧ (t.b0Win ≠ s.b0Win → ∃ v, i = .wrB0Win v) ∧
    (t.b1Win ≠ s.b1Win → ∃ v, i = .wrB1Win v) ∧ (t.stopWin ≠ s.stopWin → ∃ v, i = .wrStopWin v) ∧
    (t.txHdr ≠ s.txHdr → ∃ v, i = .wrTxHdr v) ∧ (t.txB0 ≠ s.txB0 → ∃ v, i = .wrTxB0 v) ∧
    (t.txB1 ≠ s.txB1 → ∃ v, i = .wrTxB1 v) ∧ (t.txStop ≠ s.txStop → ∃ v, i = .wrTxStop v) ∧
    (t.txTrl0 ≠ s.txTrl0 → ∃ v, i = .wrTxTrl0 v) ∧ (t.txTrl1 ≠ s.txTrl1 → ∃ v, i = .wrTxTrl1 v) ∧
    (t.intEna ≠ s.intEna → ∃ v, i = .wrIntEna v) ∧
    (t.result ≠ s.result ∨ t.resultRaw ≠ s.resultRaw → (∃ d, i = .rxEnd d) ∨ ∃ d, i = .rxNodata d)

/-- While the agents keep their duties (60_exceptions.md R248, R249), nothing newly sets TX_BUSY_START, RX_ILL_OP or
TX_SPURIOUS: no single event, and no move of the block with its agents, a whole clock cycle among them. And a DONE in the
cycle of its TX_START, or one before the presented pair is on the air, is no such move (70_reset_and_hazards.md R277). The
premise on tx_valid is part of the invariant TransmitOk. That the machine alone also runs an event that breaks a duty, how
"change" is read, and the agents' records are the model's own choices: assumption log 10, 19 and 20. -/
def Obligations.DutiesKeptNoProtocolError : Prop :=
  (∀ (i : Instr) (s t : State) (a : Agents), s.tx.valid = s.tx.busy → keepsDuty s a i = true → exec i s = .next t →
    t.err &&& 0x32 = s.err &&& 0x32 ∨ ∃ v, i = .wrErr v) ∧
  (∀ (y z : System) (m : Move), y.machine.tx.valid = y.machine.tx.busy → y.move m = some z →
    z.machine.err &&& ~~~y.machine.err &&& 0x32 = 0) ∧
  (∀ (y : System) (c : Cycle), c.resp = some 0 → y.machine.tx.valid = false ∨ y.agents.tx = .idle →
    y.move (.edge c) = none)

/-! ## Invariants -/

/-- The reset state satisfies every invariant (70_reset_and_hazards.md R260). -/
def Obligations.ResetSatisfiesInvariants : Prop := State.reset.Inv

/-- Every step keeps the reserved bits of every register 0 and CFG.REPEAT nonzero (10_state.md R22, R23). -/
def Obligations.StepKeepsRegistersOk : Prop :=
  ∀ s t : State, RegistersOk s → step s = .next t → RegistersOk t

/-- Every step keeps the buffer's canonical form, the right alignment of the partial byte and the rest of ReceiveOk
(10_state.md R36, R46, R47). -/
def Obligations.StepKeepsReceiveOk : Prop :=
  ∀ s t : State, ReceiveOk s.rx → step s = .next t → ReceiveOk t.rx

/-- Every step keeps tx_valid = tx.busy, the presented word and the position's range (10_state.md R48, R50). The premise on
the registers gives a TX_START a nonzero REPEAT. -/
def Obligations.StepKeepsTransmitOk : Prop :=
  ∀ s t : State, RegistersOk s → TransmitOk s.tx → step s = .next t → TransmitOk t.tx

/-- Every step keeps the result registers at encodings the block produces (10_state.md R40, R41). -/
def Obligations.StepKeepsResultOk : Prop :=
  ∀ s t : State, ResultOk s → step s = .next t → ResultOk t

/-! ## The agents -/

/-- Every move that breaks no duty keeps the transports in step with the block, and the start is in step: the word the TX
transport is sending or has sent is the one presented, so a DONE answers the word it stands for and no pair is skipped or
sent twice; and an open capture belongs to the batch in delivery, so no two batches fuse (60_exceptions.md R248,
43_builder.md R188, 70_reset_and_hazards.md R274, R277). The agents' records are the model's own: assumption log 20. -/
def Obligations.DutifulMovesKeepAgentsOk : Prop :=
  AgentsOk System.start ∧
  ∀ (y z : System) (m : Move), TransmitOk y.machine.tx → AgentsOk y → y.move m = some z → AgentsOk z

/-- The RX transport can keep its duty, and then a batch is one capture: its pairs, one edge each, and one END are moves
that break no duty, they give the machine RX_PAIR for each pair and RX_END, and the transport is as before; while a batch
is in delivery a NODATA breaks the duty (60_exceptions.md R248). The agents' records are the model's own: assumption
log 20. -/
def Obligations.BatchIsOneCapture : Prop :=
  (∀ (ps : List PulsePair) (y : System), y.agents.rx = .idle →
    let pairs : List Move := ps.map fun p => .edge (cycleOf (rxWord 0 (wordOfPair p)))
    ∃ z, System.run (.receive ps :: pairs ++ [.edge (cycleOf (rxWord 1 0))]) y = some z ∧ z.agents = y.agents ∧
      execAll (ps.map .rxPair ++ [.rxEnd 0]) y.machine = .next z.machine) ∧
  (∀ (ps : List PulsePair) (d : Word) (y : System), y.agents.rx = .batch ps →
    y.move (.edge (cycleOf (rxWord 2 d))) = none)
end

