-- ==== Sys2Proof/Laws/State.lean ====
section
/-! SUPPORT. One lemma per field for each named update of the state, true by rfl, so that no proof unfolds an update. -/

namespace Sys2Proof.Machine

/-! ## raiseEvent -/

@[simp] theorem raiseEvent_rx (e : IntSource) (s : State) : (raiseEvent e s).rx = s.rx := rfl
@[simp] theorem raiseEvent_result (e : IntSource) (s : State) : (raiseEvent e s).result = s.result := rfl
@[simp] theorem raiseEvent_resultRaw (e : IntSource) (s : State) : (raiseEvent e s).resultRaw = s.resultRaw := rfl
@[simp] theorem raiseEvent_tx (e : IntSource) (s : State) : (raiseEvent e s).tx = s.tx := rfl
@[simp] theorem raiseEvent_cfg (e : IntSource) (s : State) : (raiseEvent e s).cfg = s.cfg := rfl
@[simp] theorem raiseEvent_variant (e : IntSource) (s : State) : (raiseEvent e s).variant = s.variant := rfl
@[simp] theorem raiseEvent_hdrWin (e : IntSource) (s : State) : (raiseEvent e s).hdrWin = s.hdrWin := rfl
@[simp] theorem raiseEvent_b0Win (e : IntSource) (s : State) : (raiseEvent e s).b0Win = s.b0Win := rfl
@[simp] theorem raiseEvent_b1Win (e : IntSource) (s : State) : (raiseEvent e s).b1Win = s.b1Win := rfl
@[simp] theorem raiseEvent_stopWin (e : IntSource) (s : State) : (raiseEvent e s).stopWin = s.stopWin := rfl
@[simp] theorem raiseEvent_txHdr (e : IntSource) (s : State) : (raiseEvent e s).txHdr = s.txHdr := rfl
@[simp] theorem raiseEvent_txB0 (e : IntSource) (s : State) : (raiseEvent e s).txB0 = s.txB0 := rfl
@[simp] theorem raiseEvent_txB1 (e : IntSource) (s : State) : (raiseEvent e s).txB1 = s.txB1 := rfl
@[simp] theorem raiseEvent_txStop (e : IntSource) (s : State) : (raiseEvent e s).txStop = s.txStop := rfl
@[simp] theorem raiseEvent_txTrl0 (e : IntSource) (s : State) : (raiseEvent e s).txTrl0 = s.txTrl0 := rfl
@[simp] theorem raiseEvent_txTrl1 (e : IntSource) (s : State) : (raiseEvent e s).txTrl1 = s.txTrl1 := rfl
@[simp] theorem raiseEvent_err (e : IntSource) (s : State) : (raiseEvent e s).err = s.err := rfl
@[simp] theorem raiseEvent_intRaw (e : IntSource) (s : State) : (raiseEvent e s).intRaw = s.intRaw ||| intBit e := rfl
@[simp] theorem raiseEvent_intEna (e : IntSource) (s : State) : (raiseEvent e s).intEna = s.intEna := rfl
@[simp] theorem raiseEvent_rdata (e : IntSource) (s : State) : (raiseEvent e s).rdata = s.rdata := rfl
@[simp] theorem raiseEvent_inputs (e : IntSource) (s : State) : (raiseEvent e s).inputs = s.inputs := rfl

/-! ## raiseErr -/

@[simp] theorem raiseErr_rx (c : ErrCause) (s : State) : (raiseErr c s).rx = s.rx := rfl
@[simp] theorem raiseErr_result (c : ErrCause) (s : State) : (raiseErr c s).result = s.result := rfl
@[simp] theorem raiseErr_resultRaw (c : ErrCause) (s : State) : (raiseErr c s).resultRaw = s.resultRaw := rfl
@[simp] theorem raiseErr_tx (c : ErrCause) (s : State) : (raiseErr c s).tx = s.tx := rfl
@[simp] theorem raiseErr_cfg (c : ErrCause) (s : State) : (raiseErr c s).cfg = s.cfg := rfl
@[simp] theorem raiseErr_variant (c : ErrCause) (s : State) : (raiseErr c s).variant = s.variant := rfl
@[simp] theorem raiseErr_hdrWin (c : ErrCause) (s : State) : (raiseErr c s).hdrWin = s.hdrWin := rfl
@[simp] theorem raiseErr_b0Win (c : ErrCause) (s : State) : (raiseErr c s).b0Win = s.b0Win := rfl
@[simp] theorem raiseErr_b1Win (c : ErrCause) (s : State) : (raiseErr c s).b1Win = s.b1Win := rfl
@[simp] theorem raiseErr_stopWin (c : ErrCause) (s : State) : (raiseErr c s).stopWin = s.stopWin := rfl
@[simp] theorem raiseErr_txHdr (c : ErrCause) (s : State) : (raiseErr c s).txHdr = s.txHdr := rfl
@[simp] theorem raiseErr_txB0 (c : ErrCause) (s : State) : (raiseErr c s).txB0 = s.txB0 := rfl
@[simp] theorem raiseErr_txB1 (c : ErrCause) (s : State) : (raiseErr c s).txB1 = s.txB1 := rfl
@[simp] theorem raiseErr_txStop (c : ErrCause) (s : State) : (raiseErr c s).txStop = s.txStop := rfl
@[simp] theorem raiseErr_txTrl0 (c : ErrCause) (s : State) : (raiseErr c s).txTrl0 = s.txTrl0 := rfl
@[simp] theorem raiseErr_txTrl1 (c : ErrCause) (s : State) : (raiseErr c s).txTrl1 = s.txTrl1 := rfl
@[simp] theorem raiseErr_err (c : ErrCause) (s : State) : (raiseErr c s).err = s.err ||| errBit c := rfl
@[simp] theorem raiseErr_intRaw (c : ErrCause) (s : State) : (raiseErr c s).intRaw = s.intRaw ||| intBit .err := rfl
@[simp] theorem raiseErr_intEna (c : ErrCause) (s : State) : (raiseErr c s).intEna = s.intEna := rfl
@[simp] theorem raiseErr_rdata (c : ErrCause) (s : State) : (raiseErr c s).rdata = s.rdata := rfl
@[simp] theorem raiseErr_inputs (c : ErrCause) (s : State) : (raiseErr c s).inputs = s.inputs := rfl

/-! ## captureOpen -/

@[simp] theorem captureOpen_rx (s : State) : (captureOpen s).rx = openRx s.rx := rfl
@[simp] theorem captureOpen_result (s : State) : (captureOpen s).result = s.result := rfl
@[simp] theorem captureOpen_resultRaw (s : State) : (captureOpen s).resultRaw = s.resultRaw := rfl
@[simp] theorem captureOpen_tx (s : State) : (captureOpen s).tx = s.tx := rfl
@[simp] theorem captureOpen_cfg (s : State) : (captureOpen s).cfg = s.cfg := rfl
@[simp] theorem captureOpen_variant (s : State) : (captureOpen s).variant = s.variant := rfl
@[simp] theorem captureOpen_hdrWin (s : State) : (captureOpen s).hdrWin = s.hdrWin := rfl
@[simp] theorem captureOpen_b0Win (s : State) : (captureOpen s).b0Win = s.b0Win := rfl
@[simp] theorem captureOpen_b1Win (s : State) : (captureOpen s).b1Win = s.b1Win := rfl
@[simp] theorem captureOpen_stopWin (s : State) : (captureOpen s).stopWin = s.stopWin := rfl
@[simp] theorem captureOpen_txHdr (s : State) : (captureOpen s).txHdr = s.txHdr := rfl
@[simp] theorem captureOpen_txB0 (s : State) : (captureOpen s).txB0 = s.txB0 := rfl
@[simp] theorem captureOpen_txB1 (s : State) : (captureOpen s).txB1 = s.txB1 := rfl
@[simp] theorem captureOpen_txStop (s : State) : (captureOpen s).txStop = s.txStop := rfl
@[simp] theorem captureOpen_txTrl0 (s : State) : (captureOpen s).txTrl0 = s.txTrl0 := rfl
@[simp] theorem captureOpen_txTrl1 (s : State) : (captureOpen s).txTrl1 = s.txTrl1 := rfl
@[simp] theorem captureOpen_err (s : State) : (captureOpen s).err = s.err := rfl
@[simp] theorem captureOpen_intRaw (s : State) : (captureOpen s).intRaw = s.intRaw := rfl
@[simp] theorem captureOpen_intEna (s : State) : (captureOpen s).intEna = s.intEna := rfl
@[simp] theorem captureOpen_rdata (s : State) : (captureOpen s).rdata = s.rdata := rfl
@[simp] theorem captureOpen_inputs (s : State) : (captureOpen s).inputs = s.inputs := rfl

/-! ## clearPartial -/

@[simp] theorem clearPartial_rx (s : State) : (clearPartial s).rx = { s.rx with shift := 0, nbits := 0 } := rfl
@[simp] theorem clearPartial_result (s : State) : (clearPartial s).result = s.result := rfl
@[simp] theorem clearPartial_resultRaw (s : State) : (clearPartial s).resultRaw = s.resultRaw := rfl
@[simp] theorem clearPartial_tx (s : State) : (clearPartial s).tx = s.tx := rfl
@[simp] theorem clearPartial_cfg (s : State) : (clearPartial s).cfg = s.cfg := rfl
@[simp] theorem clearPartial_variant (s : State) : (clearPartial s).variant = s.variant := rfl
@[simp] theorem clearPartial_hdrWin (s : State) : (clearPartial s).hdrWin = s.hdrWin := rfl
@[simp] theorem clearPartial_b0Win (s : State) : (clearPartial s).b0Win = s.b0Win := rfl
@[simp] theorem clearPartial_b1Win (s : State) : (clearPartial s).b1Win = s.b1Win := rfl
@[simp] theorem clearPartial_stopWin (s : State) : (clearPartial s).stopWin = s.stopWin := rfl
@[simp] theorem clearPartial_txHdr (s : State) : (clearPartial s).txHdr = s.txHdr := rfl
@[simp] theorem clearPartial_txB0 (s : State) : (clearPartial s).txB0 = s.txB0 := rfl
@[simp] theorem clearPartial_txB1 (s : State) : (clearPartial s).txB1 = s.txB1 := rfl
@[simp] theorem clearPartial_txStop (s : State) : (clearPartial s).txStop = s.txStop := rfl
@[simp] theorem clearPartial_txTrl0 (s : State) : (clearPartial s).txTrl0 = s.txTrl0 := rfl
@[simp] theorem clearPartial_txTrl1 (s : State) : (clearPartial s).txTrl1 = s.txTrl1 := rfl
@[simp] theorem clearPartial_err (s : State) : (clearPartial s).err = s.err := rfl
@[simp] theorem clearPartial_intRaw (s : State) : (clearPartial s).intRaw = s.intRaw := rfl
@[simp] theorem clearPartial_intEna (s : State) : (clearPartial s).intEna = s.intEna := rfl
@[simp] theorem clearPartial_rdata (s : State) : (clearPartial s).rdata = s.rdata := rfl
@[simp] theorem clearPartial_inputs (s : State) : (clearPartial s).inputs = s.inputs := rfl

/-! ## setResult -/

@[simp] theorem setResult_rx (c : Command) (s : State) : (setResult c s).rx = s.rx := rfl
@[simp] theorem setResult_result (c : Command) (s : State) : (setResult c s).result = resultWord c := rfl
@[simp] theorem setResult_resultRaw (c : Command) (s : State) : (setResult c s).resultRaw = resultRawWord c := rfl
@[simp] theorem setResult_tx (c : Command) (s : State) : (setResult c s).tx = s.tx := rfl
@[simp] theorem setResult_cfg (c : Command) (s : State) : (setResult c s).cfg = s.cfg := rfl
@[simp] theorem setResult_variant (c : Command) (s : State) : (setResult c s).variant = s.variant := rfl
@[simp] theorem setResult_hdrWin (c : Command) (s : State) : (setResult c s).hdrWin = s.hdrWin := rfl
@[simp] theorem setResult_b0Win (c : Command) (s : State) : (setResult c s).b0Win = s.b0Win := rfl
@[simp] theorem setResult_b1Win (c : Command) (s : State) : (setResult c s).b1Win = s.b1Win := rfl
@[simp] theorem setResult_stopWin (c : Command) (s : State) : (setResult c s).stopWin = s.stopWin := rfl
@[simp] theorem setResult_txHdr (c : Command) (s : State) : (setResult c s).txHdr = s.txHdr := rfl
@[simp] theorem setResult_txB0 (c : Command) (s : State) : (setResult c s).txB0 = s.txB0 := rfl
@[simp] theorem setResult_txB1 (c : Command) (s : State) : (setResult c s).txB1 = s.txB1 := rfl
@[simp] theorem setResult_txStop (c : Command) (s : State) : (setResult c s).txStop = s.txStop := rfl
@[simp] theorem setResult_txTrl0 (c : Command) (s : State) : (setResult c s).txTrl0 = s.txTrl0 := rfl
@[simp] theorem setResult_txTrl1 (c : Command) (s : State) : (setResult c s).txTrl1 = s.txTrl1 := rfl
@[simp] theorem setResult_err (c : Command) (s : State) : (setResult c s).err = s.err := rfl
@[simp] theorem setResult_intRaw (c : Command) (s : State) : (setResult c s).intRaw = s.intRaw := rfl
@[simp] theorem setResult_intEna (c : Command) (s : State) : (setResult c s).intEna = s.intEna := rfl
@[simp] theorem setResult_rdata (c : Command) (s : State) : (setResult c s).rdata = s.rdata := rfl
@[simp] theorem setResult_inputs (c : Command) (s : State) : (setResult c s).inputs = s.inputs := rfl

/-! ## presentAt and idleTx -/

@[simp] theorem presentAt_busy (f : BitVec 2) (n : BitVec 6) (t : TxState) : (presentAt f n t).busy = t.busy := rfl
@[simp] theorem presentAt_frame (f : BitVec 2) (n : BitVec 6) (t : TxState) : (presentAt f n t).frame = f := rfl
@[simp] theorem presentAt_slot (f : BitVec 2) (n : BitVec 6) (t : TxState) : (presentAt f n t).slot = n := rfl
@[simp] theorem presentAt_pairs (f : BitVec 2) (n : BitVec 6) (t : TxState) : (presentAt f n t).pairs = t.pairs := rfl
@[simp] theorem presentAt_latch (f : BitVec 2) (n : BitVec 6) (t : TxState) : (presentAt f n t).latch = t.latch := rfl
@[simp] theorem presentAt_snap (f : BitVec 2) (n : BitVec 6) (t : TxState) : (presentAt f n t).snap = t.snap := rfl
@[simp] theorem presentAt_valid (f : BitVec 2) (n : BitVec 6) (t : TxState) : (presentAt f n t).valid = true := rfl
@[simp] theorem presentAt_word (f : BitVec 2) (n : BitVec 6) (t : TxState) : (presentAt f n t).word = pairWord t f.toNat n.toNat := rfl
@[simp] theorem idleTx_busy (t : TxState) : (idleTx t).busy = false := rfl
@[simp] theorem idleTx_frame (t : TxState) : (idleTx t).frame = t.frame := rfl
@[simp] theorem idleTx_slot (t : TxState) : (idleTx t).slot = t.slot := rfl
@[simp] theorem idleTx_pairs (t : TxState) : (idleTx t).pairs = t.pairs := rfl
@[simp] theorem idleTx_latch (t : TxState) : (idleTx t).latch = t.latch := rfl
@[simp] theorem idleTx_snap (t : TxState) : (idleTx t).snap = t.snap := rfl
@[simp] theorem idleTx_valid (t : TxState) : (idleTx t).valid = false := rfl
@[simp] theorem idleTx_word (t : TxState) : (idleTx t).word = 0 := rfl

end Sys2Proof.Machine
end

