-- ==== Sys2Proof/Laws/Bits.lean ====
section
/-! SUPPORT. Words as numbers: concatenation and field extraction as arithmetic, so that every layout of
10_state.md and 30_encoding.md becomes a sum of fields that omega can take apart. -/

namespace Sys2Proof

/-- {x, y} as a number. -/
theorem append_toNat {m n : Nat} (x : BitVec m) (y : BitVec n) : (x ++ y).toNat = x.toNat * 2 ^ n + y.toNat := by
  rw [BitVec.toNat_append, ← Nat.shiftLeft_add_eq_or_of_lt y.isLt, Nat.shiftLeft_eq]

/-- v[lo+n-1 : lo] as a number. -/
theorem extract_toNat {w : Nat} (x : BitVec w) (lo n : Nat) :
    (x.extractLsb' lo n).toNat = x.toNat / 2 ^ lo % 2 ^ n := by
  simp [BitVec.extractLsb'_toNat, Nat.shiftRight_eq_div_pow]

/-- v[i] as a number. -/
theorem getLsbD_toNat {w : Nat} (x : BitVec w) (i : Nat) : (x.getLsbD i).toNat = x.toNat / 2 ^ i % 2 := by
  rw [← BitVec.testBit_toNat, Nat.testBit_eq_decide_div_mod_eq]
  rcases Nat.mod_two_eq_zero_or_one (x.toNat / 2 ^ i) with h | h <;> simp [h]

theorem getLsbD_eq_true {w : Nat} (x : BitVec w) (i : Nat) : x.getLsbD i = true ↔ x.toNat / 2 ^ i % 2 = 1 := by
  rw [← getLsbD_toNat]; cases x.getLsbD i <;> simp

theorem getLsbD_eq_false {w : Nat} (x : BitVec w) (i : Nat) : x.getLsbD i = false ↔ x.toNat / 2 ^ i % 2 = 0 := by
  rw [← getLsbD_toNat]; cases x.getLsbD i <;> simp

/-! ## Pulse-pair words -/

theorem wordOfPair_toNat (p : PulsePair) : (wordOfPair p).toNat =
    (((bitOfPolarity p.l1).toNat * 2 ^ 15 + p.d1.toNat) * 2 ^ 1 + (bitOfPolarity p.l0).toNat) * 2 ^ 15 + p.d0.toNat :=
  (append_toNat (bitOfPolarity p.l1 ++ p.d1 ++ bitOfPolarity p.l0) p.d0).trans (by rw [append_toNat, append_toNat])

theorem bitOfPolarity_polarityOfBit (b : Bool) : (bitOfPolarity (polarityOfBit b)).toNat = b.toNat := by
  cases b <;> rfl

theorem polarityOfBit_of_toNat {b : Bool} {l : Polarity} (h : b.toNat = (bitOfPolarity l).toNat) :
    polarityOfBit b = l := by
  cases b <;> cases l <;> first | rfl | exact absurd h (by decide)

/-- The fields of the word of a pair are the pair's. -/
theorem pairOfWord_wordOfPair (p : PulsePair) : pairOfWord (wordOfPair p) = p := by
  have h0 := p.d0.isLt
  have h1 := p.d1.isLt
  have h2 := (bitOfPolarity p.l0).isLt
  have h3 := (bitOfPolarity p.l1).isLt
  have hw := wordOfPair_toNat p
  generalize wordOfPair p = w at hw
  obtain ⟨d0, l0, d1, l1⟩ := p
  simp only [pairOfWord, PulsePair.mk.injEq] at *
  refine ⟨BitVec.eq_of_toNat_eq ?_, polarityOfBit_of_toNat ?_, BitVec.eq_of_toNat_eq ?_, polarityOfBit_of_toNat ?_⟩
  · rw [extract_toNat]; omega
  · rw [getLsbD_toNat]; omega
  · rw [extract_toNat]; omega
  · rw [getLsbD_toNat]; omega

/-- The word of the fields of a word is that word. -/
theorem wordOfPair_pairOfWord (w : Word) : wordOfPair (pairOfWord w) = w := by
  apply BitVec.eq_of_toNat_eq
  rw [wordOfPair_toNat]
  simp only [pairOfWord, bitOfPolarity_polarityOfBit, getLsbD_toNat, extract_toNat]
  have := w.isLt
  omega

/-! ## Interface words -/

theorem rxWord_fields (op : BitVec 2) (v : Word) :
    (op ++ v : BitVec 34).extractLsb' 32 2 = op ∧ (op ++ v : BitVec 34).extractLsb' 0 32 = v := by
  have h : (op ++ v : BitVec 34).toNat = op.toNat * 2 ^ 32 + v.toNat := append_toNat op v
  have h0 := op.isLt
  have h1 := v.isLt
  constructor <;> apply BitVec.eq_of_toNat_eq <;> rw [extract_toNat, h] <;> omega

theorem busWord_toNat (b : BitVec 1) (a : WAddr) (v : Word) :
    (b ++ a ++ v : BitVec 39).toNat = (b.toNat * 2 ^ 6 + a.toNat) * 2 ^ 32 + v.toNat :=
  (append_toNat (b ++ a) v).trans (by rw [append_toNat])

/-- The fields of a bus word. -/
theorem busWord_fields (b : BitVec 1) (a : WAddr) (v : Word) :
    (b ++ a ++ v : BitVec 39).extractLsb' 32 6 = a ∧ (b ++ a ++ v : BitVec 39).extractLsb' 0 32 = v ∧
      ((b ++ a ++ v : BitVec 39).getLsbD 38).toNat = b.toNat := by
  have h := busWord_toNat b a v
  have h0 := b.isLt
  have h1 := a.isLt
  have h2 := v.isLt
  refine ⟨BitVec.eq_of_toNat_eq ?_, BitVec.eq_of_toNat_eq ?_, ?_⟩
  · rw [extract_toNat, h]; omega
  · rw [extract_toNat, h]; omega
  · rw [getLsbD_toNat, h]; omega

/-- A host write decodes by its address. -/
theorem decode_writeWord (a : WAddr) (v : Word) : decode (writeWord a v) = decodeWrite a v := by
  obtain ⟨ha, hv, hb⟩ := busWord_fields 1 a v
  have hb : (((1 : BitVec 1) ++ a ++ v : BitVec 39)).getLsbD 38 = true := by
    cases h : (((1 : BitVec 1) ++ a ++ v : BitVec 39)).getLsbD 38
    · rw [h] at hb; exact absurd hb (by decide)
    · rfl
  simp only [writeWord, decode, decodeBus, ha, hv, hb, if_pos]

/-- A host read decodes to BUS_READ of its address. -/
theorem decode_readWord (a : WAddr) (v : Word) : decode (.bus ((0 : BitVec 1) ++ a ++ v)) = .busRead a v := by
  obtain ⟨ha, hv, hb⟩ := busWord_fields 0 a v
  have hb : (((0 : BitVec 1) ++ a ++ v : BitVec 39)).getLsbD 38 = false := by
    cases h : (((0 : BitVec 1) ++ a ++ v : BitVec 39)).getLsbD 38
    · rfl
    · rw [h] at hb; exact absurd hb (by decide)
  simp only [decode, decodeBus, ha, hv, hb]
  rfl

/-- An RX word decodes by its OP. -/
theorem decode_rxWord (op : BitVec 2) (v : Word) : decode (rxWord op v) =
    match op.toNat with
    | 0 => .rxPair (pairOfWord v)
    | 1 => .rxEnd v
    | 2 => .rxNodata v
    | _ => .rxRsvd v := by
  obtain ⟨h0, h1⟩ := rxWord_fields op v
  simp only [rxWord, decode, decodeRx, h0, h1] <;> rfl

/-- A command word's number, from its fields. -/
theorem startWord_toNat (c b a : Byte) (ign op : BitVec 4) : (c ++ b ++ a ++ ign ++ op : Word).toNat =
    (((c.toNat * 2 ^ 8 + b.toNat) * 2 ^ 8 + a.toNat) * 2 ^ 4 + ign.toNat) * 2 ^ 4 + op.toNat :=
  (append_toNat (c ++ b ++ a ++ ign) op).trans (by rw [append_toNat, append_toNat, append_toNat])

theorem ignOpWord_toNat (ign : BitVec 28) (op : BitVec 4) : (ign ++ op : Word).toNat = ign.toNat * 2 ^ 4 + op.toNat :=
  append_toNat ign op

end Sys2Proof
end

