-- ==== Sys2Proof/Laws/Memory.lean ====
section
/-! SUPPORT. The laws of the byte memory: read after write, and the canonical form kept by every operation. -/

namespace Sys2Proof.Machine

@[simp] theorem Memory.read_nil (a : Nat) : Memory.read [] a = 0 := rfl

theorem Memory.read_cons (b : Nat) (x : Byte) (m : Memory) (a : Nat) :
    Memory.read ((b, x) :: m) a = if a = b then x else Memory.read m a := rfl

/-- An address below every entry reads as an unlisted byte. -/
theorem Memory.read_below {m : Memory} {a : Nat} (h : ∀ c ∈ m, a < c.1) : Memory.read m a = 0 := by
  induction m with
  | nil => rfl
  | cons c m ih =>
    obtain ⟨b, x⟩ := c
    have hb : a < b := h (b, x) (by simp)
    rw [Memory.read_cons, if_neg (by omega)]
    exact ih fun c hc => h c (by simp [hc])

/-- Reading a byte after a write: the byte written at its address, the old byte elsewhere. -/
theorem Memory.read_write {m : Memory} (hm : m.Pairwise fun c d => c.1 < d.1) (a : Nat) (v : Byte) (k : Nat) :
    Memory.read (Memory.write m a v) k = if k = a then v else Memory.read m k := by
  induction m with
  | nil =>
    by_cases hv : v = unlistedByte
    · subst hv; simp [Memory.write]
    · rw [Memory.write, if_neg hv, Memory.read_cons]
  | cons c m ih =>
    obtain ⟨b, x⟩ := c
    obtain ⟨hb, hm'⟩ := List.pairwise_cons.mp hm
    have ih := ih hm'
    have below : a ≤ b → k = a → k ≠ b → Memory.read m k = 0 := fun h hk _ =>
      Memory.read_below fun c hc => by have := hb c hc; omega
    simp only [Memory.write]
    by_cases h1 : a < b
    · rw [if_pos h1]
      by_cases hv : v = unlistedByte
      · subst hv
        simp only [if_pos trivial, Memory.read_cons]
        by_cases hk : k = a
        · rw [if_neg (by omega), if_pos hk, below (by omega) hk (by omega)]
        · rw [if_neg hk]
      · rw [if_neg hv]
        simp only [Memory.read_cons]
    · rw [if_neg h1]
      by_cases h2 : a = b
      · subst h2
        rw [if_pos rfl]
        by_cases hv : v = unlistedByte
        · subst hv
          simp only [if_pos trivial, Memory.read_cons]
          by_cases hk : k = a
          · rw [if_pos hk]; exact Memory.read_below fun c hc => by have := hb c hc; omega
          · rw [if_neg hk, if_neg hk]
        · rw [if_neg hv]
          simp only [Memory.read_cons]
          split <;> rfl
      · rw [if_neg h2]
        simp only [Memory.read_cons, ih]
        by_cases hk : k = b
        · rw [if_pos hk, if_neg (by omega), if_pos hk]
        · rw [if_neg hk, if_neg hk]

/-- The entries of a written memory are the entry written and entries of the old memory. -/
theorem Memory.mem_write {m : Memory} {a : Nat} {v : Byte} {c : Host.Cell} (h : c ∈ Memory.write m a v) :
    (c = (a, v) ∧ v ≠ unlistedByte) ∨ c ∈ m := by
  induction m with
  | nil =>
    rw [Memory.write] at h
    split at h
    · exact .inr h
    · exact .inl ⟨List.mem_singleton.mp h, by assumption⟩
  | cons d m ih =>
    obtain ⟨b, x⟩ := d
    simp only [Memory.write] at h
    split at h
    · split at h <;> simp_all
    · split at h
      · split at h
        · exact .inr (by simp [h])
        · rcases List.mem_cons.mp h with h | h
          · exact .inl ⟨h, by assumption⟩
          · exact .inr (by simp [h])
      · rcases List.mem_cons.mp h with h | h
        · exact .inr (by simp [h])
        · exact (ih h).imp_right fun h => by simp [h]

/-- A write inside the buffer keeps the canonical form. -/
theorem Memory.wf_write {m : Memory} (hm : Memory.wf m) {a : Nat} (ha : a < Config.rxBufBytes) (v : Byte) :
    Memory.wf (Memory.write m a v) := by
  obtain ⟨hs, he⟩ := hm
  constructor
  · induction m with
    | nil =>
      rw [Memory.write]
      split <;> simp
    | cons d m ih =>
      obtain ⟨b, x⟩ := d
      obtain ⟨hb, hs'⟩ := List.pairwise_cons.mp hs
      have ih := ih hs' fun c hc => he c (by simp [hc])
      simp only [Memory.write]
      split
      · split
        · exact hs
        · refine List.pairwise_cons.mpr ⟨fun c hc => ?_, hs⟩
          rcases List.mem_cons.mp hc with rfl | hc
          · assumption
          · have := hb c hc; simp only at *; omega
      · split
        · split
          · exact hs'
          · refine List.pairwise_cons.mpr ⟨fun c hc => ?_, hs'⟩
            have := hb c hc; simp only at *; omega
        · refine List.pairwise_cons.mpr ⟨fun c hc => ?_, ih⟩
          rcases Memory.mem_write hc with ⟨rfl, _⟩ | hc
          · simp only; omega
          · exact hb c hc
  · intro c hc
    rcases Memory.mem_write hc with ⟨rfl, hv⟩ | hc
    · exact ⟨hv, ha⟩
    · exact he c hc

theorem Memory.wf_nil : Memory.wf [] := by decide

/-- In canonical form, nothing beyond the buffer is listed. -/
theorem Memory.read_beyond {m : Memory} (hm : Memory.wf m) {a : Nat} (ha : Config.rxBufBytes ≤ a) :
    Memory.read m a = 0 := by
  obtain ⟨_, he⟩ := hm
  induction m with
  | nil => rfl
  | cons c m ih =>
    obtain ⟨b, x⟩ := c
    have hb := (he (b, x) (by simp)).2
    rw [Memory.read_cons, if_neg (by simp only at hb; omega)]
    exact ih (List.pairwise_cons.mp ‹_›).2 fun c hc => he c (by simp [hc])

/-- Memories in canonical form that read the same at every address are equal data. -/
theorem Memory.ext_of_wf {m n : Memory} (hm : Memory.wf m) (hn : Memory.wf n)
    (h : ∀ a, Memory.read m a = Memory.read n a) : m = n := by
  obtain ⟨ms, me⟩ := hm
  obtain ⟨ns, ne⟩ := hn
  induction m generalizing n with
  | nil =>
    cases n with
    | nil => rfl
    | cons d n =>
      have := h d.1
      rw [Memory.read_nil, show (d :: n : Memory) = (d.1, d.2) :: n from rfl, Memory.read_cons, if_pos rfl] at this
      exact absurd this.symm (ne d (by simp)).1
  | cons c m ih =>
    obtain ⟨b, x⟩ := c
    obtain ⟨hb, ms'⟩ := List.pairwise_cons.mp ms
    cases n with
    | nil =>
      have := h b
      rw [Memory.read_nil, Memory.read_cons, if_pos rfl] at this
      exact absurd this (me (b, x) (by simp)).1
    | cons d n =>
      obtain ⟨b', x'⟩ := d
      obtain ⟨hb', ns'⟩ := List.pairwise_cons.mp ns
      have key : b = b' := by
        rcases lt_trichotomy b b' with hlt | heq | hgt
        · have := h b
          rw [Memory.read_cons, if_pos rfl, Memory.read_cons, if_neg (by omega),
            Memory.read_below fun c hc => by have := hb' c hc; simp only at this; omega] at this
          exact absurd this (me (b, x) (by simp)).1
        · exact heq
        · have := h b'
          rw [Memory.read_cons, if_neg (by omega), Memory.read_cons, if_pos rfl,
            Memory.read_below fun c hc => by have := hb c hc; simp only at this; omega] at this
          exact absurd this.symm (ne (b', x') (by simp)).1
      subst key
      have hx : x = x' := by simpa [Memory.read_cons] using h b
      subst hx
      have tail : ∀ a, Memory.read m a = Memory.read n a := fun a => by
        by_cases ha : a = b
        · subst ha
          rw [Memory.read_below fun c hc => hb c hc, Memory.read_below fun c hc => hb' c hc]
        · simpa [Memory.read_cons, ha] using h a
      rw [ih tail ms' (fun c hc => me c (by simp [hc])) ns' (fun c hc => ne c (by simp [hc]))]

end Sys2Proof.Machine
end

