-- ==== Sys2Proof/Laws/Receive.lean ====
section
/-! SUPPORT. What the receive operations do, said once: each is an update of the receive path by a function of the receive
path alone, with RX_OVF raised or not. The provers cite these equations instead of unfolding the operations. -/

namespace Sys2Proof.Machine

/-! ## The receive path as functions of itself -/

/-- AppendByte on the receive path. -/
def appendRx (v : Byte) (r : RxState) : RxState :=
  match appendAddr r with
  | some a => { r with buf := Memory.write r.buf a v, count := satIncr r.count }
  | none => { r with count := satIncr r.count }

/-- Whether a byte appended now overflows the buffer. -/
def bufFull (r : RxState) : Bool := decide (Config.rxBufBytes ≤ r.count.toNat)

/-- AssembleBit's shifted byte. -/
def shifted (b : Bool) (r : RxState) : Byte := (r.shift <<< 1) ||| (BitVec.ofBool b).setWidth 8

/-- AssembleBit on the receive path. -/
def bitRx (b : Bool) (r : RxState) : RxState :=
  if r.nbits = 7 then { appendRx (shifted b r) r with shift := 0, nbits := 0 }
  else { r with shift := shifted b r, nbits := r.nbits + 1 }

/-- RX_PAIR's effect on an open capture, for the symbol the pair classifies as. -/
def symbolRx (sym : Symbol) (r : RxState) : RxState :=
  match sym with
  | .bit0 => bitRx false { r with lastSym := sym }
  | .bit1 => bitRx true { r with lastSym := sym }
  | .noPair | .header | .stop | .noise => { r with lastSym := sym }

/-- Whether RX_PAIR overflows an open capture. -/
def symbolOvf (sym : Symbol) (r : RxState) : Bool := (sym == .bit0 || sym == .bit1) && r.nbits == 7 && bufFull r

/-- FlushPartial on the receive path. -/
def flushRx (r : RxState) : RxState :=
  if r.nbits = 0 then r
  else { appendRx (r.shift <<< (8 - r.nbits.toNat)) r with shift := 0, nbits := 0 }

/-- Whether FlushPartial overflows. -/
def flushOvf (r : RxState) : Bool := r.nbits != 0 && bufFull r

/-- RX_END's effect on the receive path. -/
def endRx (r : RxState) : RxState := { flushRx (openRx r) with isOpen := false }

/-- A state with its receive path replaced and RX_OVF raised when `o`. -/
def withRx (s : State) (r : RxState) (o : Bool) : State :=
  { s with
    rx := r
    err := s.err ||| (if o then errBit .rxOvf else 0)
    intRaw := s.intRaw ||| (if o then intBit .err else 0) }

/-! ## Counting -/

theorem satIncr_toNat (n : BitVec 16) : (satIncr n).toNat = min (n.toNat + 1) 65535 := by
  have := n.isLt
  simp only [satIncr, Config.countMax, BitVec.toNat_ofNat]
  omega

theorem appendAddr_eq_some {r : RxState} {a : Nat} (h : appendAddr r = some a) :
    a = r.count.toNat ∧ r.count.toNat < 32 := by
  unfold appendAddr Config.rxBufBytes at h
  split at h
  · exact ⟨(Option.some.inj h).symm, by assumption⟩
  · exact absurd h (by simp)

theorem appendAddr_eq_none {r : RxState} (h : appendAddr r = none) : 32 ≤ r.count.toNat := by
  unfold appendAddr Config.rxBufBytes at h
  split at h
  · exact absurd h (by simp)
  · omega

theorem bufFull_of_some {r : RxState} {a : Nat} (h : appendAddr r = some a) : bufFull r = false := by
  have := (appendAddr_eq_some h).2
  exact decide_eq_false (by unfold Config.rxBufBytes; omega)

theorem bufFull_of_none {r : RxState} (h : appendAddr r = none) : bufFull r = true := by
  exact decide_eq_true (appendAddr_eq_none h)

@[simp] theorem appendRx_isOpen (v : Byte) (r : RxState) : (appendRx v r).isOpen = r.isOpen := by
  unfold appendRx; split <;> rfl

@[simp] theorem appendRx_lastSym (v : Byte) (r : RxState) : (appendRx v r).lastSym = r.lastSym := by
  unfold appendRx; split <;> rfl

@[simp] theorem appendRx_count (v : Byte) (r : RxState) : (appendRx v r).count = satIncr r.count := by
  unfold appendRx; split <;> rfl

/-- AppendByte on the bytes: the byte at rx.count, if that is in the buffer, and no other. -/
theorem appendRx_read {r : RxState} (hr : r.buf.Pairwise fun c d => c.1 < d.1) (v : Byte) (k : Nat) :
    Memory.read (appendRx v r).buf k = if r.count.toNat < 32 ∧ k = r.count.toNat then v else Memory.read r.buf k := by
  unfold appendRx
  cases h : appendAddr r with
  | some a =>
    obtain ⟨rfl, hlt⟩ := appendAddr_eq_some h
    simp only [Memory.read_write hr, hlt, true_and]
  | none =>
    have := appendAddr_eq_none h
    simp only
    rw [if_neg (by omega)]

/-- AppendByte keeps the buffer's canonical form. -/
theorem appendRx_wf {r : RxState} (hr : Memory.wf r.buf) (v : Byte) : Memory.wf (appendRx v r).buf := by
  unfold appendRx
  cases h : appendAddr r with
  | some a => exact Memory.wf_write hr (by have := appendAddr_eq_some h; unfold Config.rxBufBytes; omega) v
  | none => exact hr

theorem openRx_isOpen (r : RxState) : (openRx r).isOpen = true := by
  unfold openRx openedRx
  split
  · assumption
  · rfl

theorem shifted_toNat (b : Bool) (r : RxState) : (shifted b r).toNat = (2 * r.shift.toNat + b.toNat) % 256 := by
  unfold shifted
  generalize r.shift = x
  revert b x
  decide +kernel

/-- AssembleBit on the eighth bit of a byte. -/
theorem bitRx_last (b : Bool) {r : RxState} (h : r.nbits.toNat = 7) :
    bitRx b r = { appendRx (shifted b r) r with shift := 0, nbits := 0 } :=
  if_pos (BitVec.eq_of_toNat_eq h)

/-- AssembleBit before it. -/
theorem bitRx_more (b : Bool) {r : RxState} (h : r.nbits.toNat < 7) :
    bitRx b r = { r with shift := shifted b r, nbits := r.nbits + 1 } :=
  if_neg fun (e : r.nbits = 7) => by rw [e] at h; exact absurd h (by decide)

@[simp] theorem bitRx_isOpen (b : Bool) (r : RxState) : (bitRx b r).isOpen = r.isOpen := by
  unfold bitRx; split <;> simp

@[simp] theorem bitRx_lastSym (b : Bool) (r : RxState) : (bitRx b r).lastSym = r.lastSym := by
  unfold bitRx; split <;> simp

@[simp] theorem symbolRx_isOpen (sym : Symbol) (r : RxState) : (symbolRx sym r).isOpen = r.isOpen := by
  cases sym <;> simp [symbolRx]

@[simp] theorem symbolRx_lastSym (sym : Symbol) (r : RxState) : (symbolRx sym r).lastSym = sym := by
  cases sym <;> simp [symbolRx]

/-! ## The operations -/

theorem appendByte_eq (v : Byte) (s : State) : appendByte v s = withRx s (appendRx v s.rx) (bufFull s.rx) := by
  unfold appendByte appendRx withRx
  cases h : appendAddr s.rx with
  | some a => simp [bufFull_of_some h]
  | none => simp [bufFull_of_none h, raiseErr, raiseEvent]

theorem assembleBit_eq (b : Bool) (s : State) :
    assembleBit b s = withRx s (bitRx b s.rx) (s.rx.nbits == 7 && bufFull s.rx) := by
  unfold assembleBit bitRx
  by_cases h : s.rx.nbits = 7
  · simp only [h, if_pos, appendByte_eq]; rfl
  · have h' : (s.rx.nbits == 7) = false := beq_eq_false_iff_ne.mpr h
    simp only [if_neg h, h', withRx, shifted, Bool.false_and, Bool.false_eq_true, if_false]
    simp

theorem flushPartial_eq (s : State) : flushPartial s = withRx s (flushRx s.rx) (flushOvf s.rx) := by
  unfold flushPartial flushRx flushOvf
  by_cases h : s.rx.nbits = 0
  · have h' : (s.rx.nbits != 0) = false := by rw [h]; rfl
    simp only [if_pos h, h', withRx, Bool.false_and, Bool.false_eq_true, if_false]
    simp
  · have h' : (s.rx.nbits != 0) = true := bne_iff_ne.mpr h
    simp only [if_neg h, h', appendByte_eq, Bool.true_and]
    rfl

/-- RX_PAIR, whole. -/
theorem exec_rxPair (p : PulsePair) (s : State) : exec (.rxPair p) s =
    .next (withRx s (symbolRx (classify s p) (openRx s.rx)) (symbolOvf (classify s p) (openRx s.rx))) := by
  have hc : classify (captureOpen s) p = classify s p := rfl
  unfold exec execRxPair
  simp only [hc]
  cases classify s p <;>
    simp [shiftSymbol, assembleBit_eq, symbolRx, symbolOvf, withRx, captureOpen, bufFull]

/-- The interpreter reads the count, the buffer, CFG and VARIANT only. -/
theorem interpret_congr {s t : State} (hc : s.rx.count = t.rx.count) (hb : s.rx.buf = t.rx.buf) (hg : s.cfg = t.cfg)
    (hv : s.variant = t.variant) : interpret s = interpret t := by
  unfold interpret; rw [hc, hb, hg, hv]

/-- RX_END, whole. -/
theorem exec_rxEnd (d : Word) (s : State) : exec (.rxEnd d) s =
    .next { s with
      rx := endRx s.rx
      result := resultWord (interpret { s with rx := endRx s.rx })
      resultRaw := resultRawWord (interpret { s with rx := endRx s.rx })
      err := s.err ||| (if flushOvf (openRx s.rx) then errBit .rxOvf else 0)
      intRaw := s.intRaw ||| (if flushOvf (openRx s.rx) then intBit .err else 0) ||| intBit .rxDone } := by
  unfold exec execRxEnd
  rw [flushPartial_eq]
  have hi : interpret (withRx (captureOpen s) (flushRx (captureOpen s).rx) (flushOvf (captureOpen s).rx)) =
      interpret { s with rx := endRx s.rx } := interpret_congr rfl rfl rfl rfl
  simp only [hi]
  rfl

/-- RX_NODATA, whole. -/
theorem exec_rxNodata (d : Word) (s : State) : exec (.rxNodata d) s =
    .next { s with rx := RxState.reset, result := 1, resultRaw := 0, intRaw := s.intRaw ||| intBit .rxDone } := rfl

end Sys2Proof.Machine
end

