-- ==== Sys2Proof/Laws/Transmit.lean ====
section
/-! SUPPORT. What the transmit operations do, said once, and the sequencer's next position. -/

namespace Sys2Proof.Machine

/-- A DONE's effect on the transmit path. -/
def doneTx (t : TxState) : TxState :=
  if t.busy then
    match nextPos t with
    | some (f, n) => presentAt f n { t with pairs := t.pairs + 1 }
    | none => idleTx { t with pairs := t.pairs + 1, frame := 0, slot := 0 }
  else t

/-- Whether a DONE ends the sequence. -/
def doneEnds (t : TxState) : Bool := t.busy && (nextPos t).isNone

/-- A FAIL's effect on the transmit path. -/
def failedTx (t : TxState) : TxState := if t.busy then idleTx t else t

/-- The word of a slot depends on the latch and the snapshot only. -/
theorem pairWord_congr {t u : TxState} (hl : t.latch = u.latch) (hs : t.snap = u.snap) (f n : Nat) :
    pairWord t f n = pairWord u f n := by
  unfold pairWord slotPair slotBit frameBytes; rw [hl, hs]

/-- PairWord as a number: {0, space, 1, mark} (43_builder.md R186). -/
theorem wordOfDurPair_toNat (q : DurPair) :
    (wordOfDurPair q).toNat = q.space.toNat * 65536 + 32768 + q.mark.toNat := by
  unfold wordOfDurPair
  simp only [append_toNat]
  simp
  omega

/-- TX_DONE, whole. -/
theorem exec_txDone (s : State) : exec .txDone s =
    .next { s with
      tx := doneTx s.tx
      err := s.err ||| (if s.tx.busy then 0 else errBit .txSpurious)
      intRaw := s.intRaw ||| (if s.tx.busy then (if doneEnds s.tx then intBit .txDone else 0) else intBit .err) } := by
  unfold exec execTxDone doneTx doneEnds advanceTx
  by_cases hb : s.tx.busy
  · cases h : nextPos s.tx with
    | some q => simp [hb]
    | none => simp [hb, raiseEvent]
  · simp [hb, raiseErr, raiseEvent]

/-- TX_FAIL, whole. -/
theorem exec_txFail (s : State) : exec .txFail s =
    .next { s with
      tx := failedTx s.tx
      err := s.err ||| (if s.tx.busy then errBit .txFail else errBit .txSpurious)
      intRaw := s.intRaw ||| intBit .err } := by
  unfold exec execTxFail failedTx failTx
  by_cases hb : s.tx.busy <;> simp [hb, raiseErr, raiseEvent]

/-- TX_START while idle, whole. -/
theorem exec_txStart_idle (c b a : Byte) (ign : BitVec 4) {s : State} (h : s.tx.busy = false) :
    exec (.cmdTxStart c b a ign) s = .next (startTx a b c s) := by
  simp [exec, execCmdTxStart, h]

/-- TX_START while busy, whole. -/
theorem exec_txStart_busy (c b a : Byte) (ign : BitVec 4) {s : State} (h : s.tx.busy = true) :
    exec (.cmdTxStart c b a ign) s = .next (raiseErr .txBusyStart s) := by
  simp [exec, execCmdTxStart, h]

/-- The next position inside a frame. -/
theorem nextPos_more {t : TxState} (h : t.slot.toNat < 49) : nextPos t = some (t.frame, t.slot + 1) := by
  simp [nextPos, Config.stopSlot, Config.slotsPerFrame, h]

/-- The next position at the end of a frame that is not the last. -/
theorem nextPos_frame {t : TxState} (h : 49 ≤ t.slot.toNat) (hf : t.frame.toNat + 1 < nframes t.snap) :
    nextPos t = some (t.frame + 1, 0) := by
  simp [nextPos, Config.stopSlot, Config.slotsPerFrame, hf, Nat.not_lt.mpr h]

/-- The end of the sequence. -/
theorem nextPos_end {t : TxState} (h : 49 ≤ t.slot.toNat) (hf : nframes t.snap ≤ t.frame.toNat + 1) :
    nextPos t = none := by
  simp [nextPos, Config.stopSlot, Config.slotsPerFrame, Nat.not_lt.mpr hf, Nat.not_lt.mpr h]

theorem nframes_le (n : Snapshot) : nframes n ≤ 4 := by
  have := n.reps.isLt
  unfold nframes
  cases n.trlEn <;> simp <;> omega

end Sys2Proof.Machine
end

