-- ==== Sys2Proof/Laws/Exec.lean ====
section
/-! SUPPORT. Facts about every operation at once, and about sequences of them. -/

namespace Sys2Proof.Machine

/-- Every operation answers a next state, leaves the pending input alone and does not look at it. -/
theorem exec_inputs (i : Instr) (s : State) : ∃ t, exec i s = .next t ∧ t.inputs = s.inputs ∧
    ∀ x, exec i { s with inputs := x } = .next { t with inputs := x } := by
  cases i with
  | rxPair p => exact ⟨_, exec_rxPair p s, rfl, fun x => exec_rxPair p _⟩
  | rxEnd d => exact ⟨_, exec_rxEnd d s, rfl, fun x => exec_rxEnd d _⟩
  | txDone => exact ⟨_, exec_txDone s, rfl, fun x => exec_txDone _⟩
  | txFail => exact ⟨_, exec_txFail s, rfl, fun x => exec_txFail _⟩
  | cmdTxStart c b a ign =>
    by_cases h : s.tx.busy = true
    · exact ⟨_, exec_txStart_busy c b a ign h, rfl, fun x => exec_txStart_busy c b a ign (s := { s with inputs := x }) h⟩
    · rw [Bool.not_eq_true] at h
      exact ⟨_, exec_txStart_idle c b a ign h, rfl, fun x => exec_txStart_idle c b a ign (s := { s with inputs := x }) h⟩
  | rxNodata d => exact ⟨_, rfl, rfl, fun x => rfl⟩
  | rxRsvd d => exact ⟨_, rfl, rfl, fun x => rfl⟩
  | cmdNop ign => exact ⟨_, rfl, rfl, fun x => rfl⟩
  | cmdIllegal ign op => exact ⟨_, rfl, rfl, fun x => rfl⟩
  | wrCfg v => exact ⟨_, rfl, rfl, fun x => rfl⟩
  | wrVariant v => exact ⟨_, rfl, rfl, fun x => rfl⟩
  | wrHdrWin v => exact ⟨_, rfl, rfl, fun x => rfl⟩
  | wrB0Win v => exact ⟨_, rfl, rfl, fun x => rfl⟩
  | wrB1Win v => exact ⟨_, rfl, rfl, fun x => rfl⟩
  | wrStopWin v => exact ⟨_, rfl, rfl, fun x => rfl⟩
  | wrTxHdr v => exact ⟨_, rfl, rfl, fun x => rfl⟩
  | wrTxB0 v => exact ⟨_, rfl, rfl, fun x => rfl⟩
  | wrTxB1 v => exact ⟨_, rfl, rfl, fun x => rfl⟩
  | wrTxStop v => exact ⟨_, rfl, rfl, fun x => rfl⟩
  | wrTxTrl0 v => exact ⟨_, rfl, rfl, fun x => rfl⟩
  | wrTxTrl1 v => exact ⟨_, rfl, rfl, fun x => rfl⟩
  | wrErr v => exact ⟨_, rfl, rfl, fun x => rfl⟩
  | wrIntRaw v => exact ⟨_, rfl, rfl, fun x => rfl⟩
  | wrIntEna v => exact ⟨_, rfl, rfl, fun x => rfl⟩
  | wrIgnored a d => exact ⟨_, rfl, rfl, fun x => rfl⟩
  | busRead a d => exact ⟨_, rfl, rfl, fun x => rfl⟩

theorem execAll_nil (s : State) : execAll [] s = .next s := rfl

theorem execAll_cons {i : Instr} {s t : State} (h : exec i s = .next t) (is : List Instr) :
    execAll (i :: is) s = execAll is t := by
  simp only [execAll, h]

/-- A sequence of operations answers a next state. -/
theorem execAll_next (is : List Instr) (s : State) : ∃ t, execAll is s = .next t := by
  induction is generalizing s with
  | nil => exact ⟨s, rfl⟩
  | cons i is ih =>
    obtain ⟨u, hu, _⟩ := exec_inputs i s
    rw [execAll_cons hu]
    exact ih u

/-- Two sequences, one after the other. -/
theorem execAll_append {is : List Instr} {s t : State} (h : execAll is s = .next t) (js : List Instr) :
    execAll (is ++ js) s = execAll js t := by
  induction is generalizing s with
  | nil => rw [execAll_nil] at h; rw [Host.Outcome.next.inj h]; rfl
  | cons i is ih =>
    obtain ⟨u, hu, _⟩ := exec_inputs i s
    rw [execAll_cons hu] at h
    rw [List.cons_append, execAll_cons hu]
    exact ih h

/-- A sequence of operations leaves the pending input alone and does not look at it. -/
theorem execAll_inputs {is : List Instr} {s t : State} (h : execAll is s = .next t) (x : List Cycle) :
    execAll is { s with inputs := x } = .next { t with inputs := x } := by
  induction is generalizing s with
  | nil => rw [execAll_nil] at h; rw [Host.Outcome.next.inj h]; rfl
  | cons i is ih =>
    obtain ⟨u, hu, _, hx⟩ := exec_inputs i s
    rw [execAll_cons hu] at h
    rw [execAll_cons (hx x)]
    exact ih h

/-- One step of a run. -/
theorem core_run_succ (n : Nat) {s t : State} (h : step s = .next t) :
    Sys2Proof.core.run (n + 1) s = Sys2Proof.core.run n t := by
  have h' : Sys2Proof.core.step s = .next t := h
  simp only [Host.Core.run, h']

/-- One turn of a loopback while a word is presented. -/
theorem loopback_busy (n : Nat) {s t : State} (hb : s.tx.busy = true)
    (h : execAll [.rxPair (pairOfWord s.tx.word), .txDone] s = .next t) : loopback (n + 1) s = loopback n t := by
  simp only [loopback, hb, if_true, h]

/-- A loopback ends when nothing is presented. -/
theorem loopback_idle (n : Nat) {s : State} (hb : s.tx.busy = false) : loopback n s = .next s := by
  cases n with
  | zero => rfl
  | succ n => simp [loopback, hb]

end Sys2Proof.Machine
end

