-- ==== Sys2Proof/Laws/Agents.lean ====
section
/-! SUPPORT. What a clock edge can be, and what it does to the agents' records: which instructions each interface can
carry, and the records after an edge by what it carries. -/

namespace Sys2Proof.Machine

/-! ## What each interface carries -/

theorem isRxEvent_decode_rx (w : BitVec 34) : isRxEvent (decode (.rx w)) = true := by
  simp only [decode, decodeRx]; split <;> rfl

theorem decode_resp_cases (w : BitVec 1) : decode (.resp w) = .txDone ∨ decode (.resp w) = .txFail := by
  revert w; decide

/-- A host-bus word is no RX event and no TX response. -/
theorem decode_bus_other (w : BitVec 39) :
    isRxEvent (decode (.bus w)) = false ∧ decode (.bus w) ≠ .txDone ∧ decode (.bus w) ≠ .txFail := by
  simp only [decode, decodeBus, decodeWrite, decodeCmd]
  repeat' split
  all_goals exact ⟨rfl, by simp, by simp⟩

/-! ## The records after an event -/

theorem sent_bus (a : Agents) (w : BitVec 39) : a.sent (decode (.bus w)) = a := by
  have h := decode_bus_other w
  generalize decode (.bus w) = i at h
  cases i <;> simp_all [isRxEvent, Agents.sent]

theorem sent_rx_tx (a : Agents) (w : BitVec 34) : (a.sent (decode (.rx w))).tx = a.tx := by
  have h := isRxEvent_decode_rx w
  generalize decode (.rx w) = i at h
  cases i <;> simp_all [isRxEvent, Agents.sent]

/-- An RX event changes the RX transport's record only. -/
theorem sent_rx (a : Agents) (w : BitVec 34) :
    a.sent (decode (.rx w)) = { rx := (a.sent (decode (.rx w))).rx, tx := a.tx } := by
  rw [← sent_rx_tx a w]

theorem sent_resp (a : Agents) (w : BitVec 1) : a.sent (decode (.resp w)) = { a with tx := .idle } := by
  rcases decode_resp_cases w with h | h <;> rw [h] <;> rfl

/-- The records after an edge: the RX record by its RX event, the TX record idle after a response. -/
theorem foldl_sent (c : Cycle) (a : Agents) : c.events.foldl Agents.sent a =
    { rx := match c.rx with | some w => (a.sent (decode (.rx w))).rx | none => a.rx
      tx := if c.resp.isSome then .idle else a.tx } := by
  obtain ⟨r, b, x, t⟩ := c
  cases b <;> cases x <;> cases t <;> simp [Cycle.events, sent_bus, sent_resp] <;> exact sent_rx a _

/-- A property of every event of an edge, interface by interface. -/
theorem events_all_iff (c : Cycle) (f : Instr → Bool) : c.events.all f = true ↔
    (∀ w, c.bus = some w → f (decode (.bus w)) = true) ∧ (∀ w, c.rx = some w → f (decode (.rx w)) = true) ∧
      ∀ w, c.resp = some w → f (decode (.resp w)) = true := by
  obtain ⟨r, b, x, t⟩ := c
  cases b <;> cases x <;> cases t <;> simp [Cycle.events]

/-! ## The machine over an edge in reset -/

theorem runCycle_reset {c : Cycle} (h : c.rstN = false) (s : State) : runCycle c s = .next (heldInReset s.inputs) := by
  have hs : step { s with inputs := c :: s.inputs } = .next (heldInReset s.inputs) := by simp [step, h]
  unfold runCycle Cycle.steps
  rw [h]
  exact (core_run_succ 0 hs).trans rfl

end Sys2Proof.Machine
end

