-- ==== Sys2Proof/Laws/Operands.lean ====
section
/-! SUPPORT. The operand forms as arithmetic: windows, CFG, the byte and pair layouts. -/

namespace Sys2Proof.Machine

/-- `InWin` on the fields LO = [14:0] and HI = [30:16] (40_classifier.md R111). -/
theorem inWin_iff (d : Dur) (w : Word) : inWin d w = true ↔
    w.toNat % 2 ^ 15 ≤ d.toNat ∧ d.toNat ≤ w.toNat / 2 ^ 16 % 2 ^ 15 := by
  unfold inWin lowDur highDur
  simp [BitVec.le_def, Nat.shiftRight_eq_div_pow]

theorem polarityOk_iff (p : PulsePair) : polarityOk p = true ↔ p.l0 = .mark ∧ p.l1 = .space := by
  simp [polarityOk]

/-- The classifier depends on the four windows only. -/
theorem classify_congr {s t : State} (h : s.hdrWin = t.hdrWin) (h0 : s.b0Win = t.b0Win) (h1 : s.b1Win = t.b1Win)
    (hs : s.stopWin = t.stopWin) (p : PulsePair) : classify s p = classify t p := by
  unfold classify; rw [h, h0, h1, hs]

/-- A pair classifies as some symbol, never as "no pair yet". -/
theorem classify_ne_noPair (s : State) (p : PulsePair) : classify s p ≠ .noPair := by
  unfold classify
  repeat' split
  all_goals decide

theorem cfgRepeat_toNat (w : Word) : (cfgRepeat w).toNat = w.toNat / 2 % 4 := by
  unfold cfgRepeat; exact extract_toNat w 1 2

theorem lowDur_toNat (w : Word) : (lowDur w).toNat = w.toNat % 2 ^ 15 := by
  unfold lowDur; rw [extract_toNat, pow_zero, Nat.div_one]

theorem highDur_toNat (w : Word) : (highDur w).toNat = w.toNat / 2 ^ 16 % 2 ^ 15 := by
  unfold highDur; rw [extract_toNat]

theorem byteOf_toNat (w : Word) (k : Nat) : (byteOf w k).toNat = w.toNat / 2 ^ (8 * k) % 256 := by
  unfold byteOf; exact extract_toNat w (8 * k) 8

theorem wordOfBytes_toNat (a b c d : Byte) : (wordOfBytes a b c d).toNat =
    a.toNat + 256 * b.toNat + 65536 * c.toNat + 16777216 * d.toNat := by
  have h : (d ++ c ++ b ++ a : Word).toNat = (d ++ c ++ b).toNat * 2 ^ 8 + a.toNat := append_toNat (d ++ c ++ b) a
  unfold wordOfBytes
  rw [h, append_toNat (d ++ c) b, append_toNat d c]
  omega

/-- CFG after a write, field by field (44_host_bus.md R212). -/
theorem cfgAfterWrite_toNat (c v : Word) : (cfgAfterWrite c v).toNat =
    v.toNat % 2 + 2 * (if v.toNat / 2 % 4 ≠ 0 then v.toNat / 2 % 4 else c.toNat / 2 % 4) + 8 * (v.toNat / 8 % 2) := by
  have h0 : (v.getLsbD 0).toNat = v.toNat % 2 := by rw [getLsbD_toNat, pow_zero, Nat.div_one]
  have h3 : (v.getLsbD 3).toNat = v.toNat / 8 % 2 := getLsbD_toNat v 3
  have he : (if cfgRepeat v = 0 then cfgRepeat c else cfgRepeat v).toNat =
      if v.toNat / 2 % 4 ≠ 0 then v.toNat / 2 % 4 else c.toNat / 2 % 4 := by
    by_cases h : cfgRepeat v = 0
    · have hv := cfgRepeat_toNat v
      rw [h] at hv
      rw [if_pos h, cfgRepeat_toNat, if_neg (by rw [← hv]; decide)]
    · rw [if_neg h, cfgRepeat_toNat, if_pos]
      intro e
      rw [← cfgRepeat_toNat] at e
      exact h (BitVec.eq_of_toNat_eq e)
  have hr := (if cfgRepeat v = 0 then cfgRepeat c else cfgRepeat v).isLt
  unfold cfgAfterWrite
  dsimp only
  rw [← he, ← h0, ← h3]
  simp only [append_toNat, BitVec.toNat_ofBool, cfgTrlEn, cfgChkCmpl]
  simp
  omega

end Sys2Proof.Machine
end

