-- ==== Sys2Proof/Laws/Interpret.lean ====
section
/-! SUPPORT. The layout of RESULT: each field read back (10_state.md R40). -/

namespace Sys2Proof.Machine

theorem settingsWord_toNat (x : Settings) : (settingsWord x).toNat =
    x.tempC.toNat * 65536 + x.tempSentinel.toNat * 4096 + x.tempValid.toNat * 2048 + (modeFieldCode x.mode).toNat * 512 +
      x.fanDefaulted.toNat * 256 + (fanFieldCode x.fan).toNat * 32 + 7 := by
  unfold settingsWord
  simp only [append_toNat, BitVec.toNat_ofBool]
  simp
  omega

/-- Every field of a SETTINGS result reads back as it was written. -/
theorem settingsWord_fields (x : Settings) :
    (settingsWord x).extractLsb' 0 3 = 7 ∧ (settingsWord x).extractLsb' 3 2 = 0 ∧
      (settingsWord x).extractLsb' 5 3 = fanFieldCode x.fan ∧ (settingsWord x).extractLsb' 9 2 = modeFieldCode x.mode ∧
      (settingsWord x).extractLsb' 16 8 = x.tempC ∧ (settingsWord x).getLsbD 8 = x.fanDefaulted ∧
      (settingsWord x).getLsbD 11 = x.tempValid ∧ (settingsWord x).getLsbD 12 = x.tempSentinel := by
  have h := settingsWord_toNat x
  have h1 := (fanFieldCode x.fan).isLt
  have h2 := (modeFieldCode x.mode).isLt
  have h3 := x.tempC.isLt
  have h4 := Bool.toNat_le x.fanDefaulted
  have h5 := Bool.toNat_le x.tempValid
  have h6 := Bool.toNat_le x.tempSentinel
  refine ⟨BitVec.eq_of_toNat_eq ?_, BitVec.eq_of_toNat_eq ?_, BitVec.eq_of_toNat_eq ?_, BitVec.eq_of_toNat_eq ?_,
    BitVec.eq_of_toNat_eq ?_, ?_, ?_, ?_⟩
  · rw [extract_toNat, h]; simp; omega
  · rw [extract_toNat, h]; simp; omega
  · rw [extract_toNat, h]; omega
  · rw [extract_toNat, h]; omega
  · rw [extract_toNat, h]; omega
  all_goals
    rw [Bool.eq_iff_iff, BitVec.getLsbD, Nat.testBit_eq_decide_div_mod_eq, h, decide_eq_true_iff, ← Bool.toNat_eq_one]
    omega

/-- The fields a SETTINGS result does not have are 0. -/
theorem settingsWord_reserved (x : Settings) : settingsWord x &&& 0xFF00E018 = 0 := by
  obtain ⟨f, fd, m, tv, ts, tc, fc, mc, tcd⟩ := x
  unfold settingsWord
  dsimp only
  apply BitVec.eq_of_getLsbD_eq
  intro i hi
  simp only [BitVec.getLsbD_and, BitVec.getLsbD_append]
  generalize (fanFieldCode f).getLsbD = ff
  generalize (modeFieldCode m).getLsbD = mm
  interval_cases i <;> simp

end Sys2Proof.Machine
end

