-- ==== Sys2Proof/Laws/PerInstr.lean ====
section
/-! SUPPORT. Facts about every instruction as syntax, one lemma per constructor. RowMatch: the word of a well-formed
instruction matches the row of the opcode table that bears its mnemonic (30_encoding.md R92). -/

namespace Sys2Proof.Laws.RowMatch

/-- The encoding of `i` matches the row of its own mnemonic, on that row's interface. -/
def Statement (i : Instr) : Prop :=
  i.wellFormed = true → ∃ r ∈ opcodeTable, r.mnemonic = i.mnemonic ∧ rowMatches (encode i) r = true

/-! ## What the masks keep -/

theorem rx_masked (op : BitVec 2) (d : Word) :
    ((op ++ d : BitVec 34).setWidth 39 &&& 0x300000000) = (0 : BitVec 5) ++ op ++ (0 : Word) := by
  apply BitVec.eq_of_getLsbD_eq
  intro i hi
  simp only [BitVec.getLsbD_and, BitVec.getLsbD_append, BitVec.getLsbD_setWidth]
  interval_cases i <;> simp

theorem bus_masked (b : BitVec 1) (a : WAddr) (v : Word) :
    ((b ++ a ++ v : BitVec 39) &&& 0x7F00000000) = b ++ a ++ (0 : Word) := by
  apply BitVec.eq_of_getLsbD_eq
  intro i hi
  simp only [BitVec.getLsbD_and, BitVec.getLsbD_append]
  interval_cases i <;> simp

theorem write_masked (b : BitVec 1) (a : WAddr) (v : Word) :
    ((b ++ a ++ v : BitVec 39) &&& 0x4000000000) = b ++ (0 : WAddr) ++ (0 : Word) := by
  apply BitVec.eq_of_getLsbD_eq
  intro i hi
  simp only [BitVec.getLsbD_and, BitVec.getLsbD_append]
  interval_cases i <;> simp

theorem cmd_masked (b : BitVec 1) (a : WAddr) (x : BitVec 28) (op : BitVec 4) :
    ((b ++ a ++ (x ++ op : Word) : BitVec 39) &&& 0x7F0000000F) = b ++ a ++ ((0 : BitVec 28) ++ op : Word) := by
  apply BitVec.eq_of_getLsbD_eq
  intro i hi
  simp only [BitVec.getLsbD_and, BitVec.getLsbD_append]
  interval_cases i <;> simp

/-- A row whose mask keeps WRITE and WADDR matches a write to its address. -/
theorem write_matches (m : String) (a : WAddr) (v : Word) :
    rowMatches (writeWord a v) ⟨m, .bus, (1 : BitVec 1) ++ a ++ (0 : Word), 0x7F00000000⟩ = true :=
  Bool.and_eq_true_iff.mpr ⟨rfl, beq_iff_eq.mpr (bus_masked 1 a v)⟩

/-- A row whose mask keeps OP matches an RX word with that OP. -/
theorem rx_matches (m : String) (op : BitVec 2) (d : Word) :
    rowMatches (rxWord op d) ⟨m, .rx, (0 : BitVec 5) ++ op ++ (0 : Word), 0x300000000⟩ = true :=
  Bool.and_eq_true_iff.mpr ⟨rfl, beq_iff_eq.mpr (rx_masked op d)⟩

/-- A row whose mask keeps WDATA[3:0] too matches a command with that OP. -/
theorem cmd_matches (m : String) (x : BitVec 28) (op : BitVec 4) :
    rowMatches (writeWord cmdWaddr (x ++ op))
      ⟨m, .bus, (1 : BitVec 1) ++ cmdWaddr ++ ((0 : BitVec 28) ++ op : Word), 0x7F0000000F⟩ = true :=
  Bool.and_eq_true_iff.mpr ⟨rfl, beq_iff_eq.mpr (cmd_masked 1 cmdWaddr x op)⟩

/-! ## Every constructor -/

theorem rxPair (p : PulsePair) : Statement (.rxPair p) := fun _ =>
  ⟨⟨"RX_PAIR", .rx, 0x0, 0x300000000⟩, by decide, rfl, rx_matches _ 0 _⟩

theorem rxEnd (data : Word) : Statement (.rxEnd data) := fun _ =>
  ⟨⟨"RX_END", .rx, 0x100000000, 0x300000000⟩, by decide, rfl, rx_matches _ 1 _⟩

theorem rxNodata (data : Word) : Statement (.rxNodata data) := fun _ =>
  ⟨⟨"RX_NODATA", .rx, 0x200000000, 0x300000000⟩, by decide, rfl, rx_matches _ 2 _⟩

theorem rxRsvd (data : Word) : Statement (.rxRsvd data) := fun _ =>
  ⟨⟨"RX_RSVD", .rx, 0x300000000, 0x300000000⟩, by decide, rfl, rx_matches _ 3 _⟩

theorem txDone : Statement .txDone := fun _ => ⟨⟨"TX_DONE", .resp, 0x0, 0x1⟩, by decide, rfl, by decide⟩

theorem txFail : Statement .txFail := fun _ => ⟨⟨"TX_FAIL", .resp, 0x1, 0x1⟩, by decide, rfl, by decide⟩

theorem cmdNop (ignored : BitVec 28) : Statement (.cmdNop ignored) := fun _ =>
  ⟨⟨"CMD_NOP", .bus, 0x4C00000000, 0x7F0000000F⟩, by decide, rfl, cmd_matches _ ignored 0⟩

theorem cmdTxStart (c b a : Byte) (ignored : BitVec 4) : Statement (.cmdTxStart c b a ignored) := fun _ =>
  ⟨⟨"CMD_TX_START", .bus, 0x4C00000001, 0x7F0000000F⟩, by decide, rfl, cmd_matches _ (c ++ b ++ a ++ ignored) 1⟩

theorem cmdIllegal (ignored : BitVec 28) (op : BitVec 4) : Statement (.cmdIllegal ignored op) := fun _ =>
  ⟨⟨"CMD_ILLEGAL", .bus, 0x4C00000000, 0x7F00000000⟩, by decide, rfl, write_matches _ cmdWaddr _⟩

theorem wrCfg (v : Word) : Statement (.wrCfg v) := fun _ =>
  ⟨⟨"WR_CFG", .bus, 0x4000000000, 0x7F00000000⟩, by decide, rfl, write_matches _ 0 _⟩

theorem wrVariant (v : Word) : Statement (.wrVariant v) := fun _ =>
  ⟨⟨"WR_VARIANT", .bus, 0x4100000000, 0x7F00000000⟩, by decide, rfl, write_matches _ 1 _⟩

theorem wrHdrWin (v : Word) : Statement (.wrHdrWin v) := fun _ =>
  ⟨⟨"WR_HDR_WIN", .bus, 0x4200000000, 0x7F00000000⟩, by decide, rfl, write_matches _ 2 _⟩

theorem wrB0Win (v : Word) : Statement (.wrB0Win v) := fun _ =>
  ⟨⟨"WR_B0_WIN", .bus, 0x4300000000, 0x7F00000000⟩, by decide, rfl, write_matches _ 3 _⟩

theorem wrB1Win (v : Word) : Statement (.wrB1Win v) := fun _ =>
  ⟨⟨"WR_B1_WIN", .bus, 0x4400000000, 0x7F00000000⟩, by decide, rfl, write_matches _ 4 _⟩

theorem wrStopWin (v : Word) : Statement (.wrStopWin v) := fun _ =>
  ⟨⟨"WR_STOP_WIN", .bus, 0x4500000000, 0x7F00000000⟩, by decide, rfl, write_matches _ 5 _⟩

theorem wrTxHdr (v : Word) : Statement (.wrTxHdr v) := fun _ =>
  ⟨⟨"WR_TX_HDR", .bus, 0x4600000000, 0x7F00000000⟩, by decide, rfl, write_matches _ 6 _⟩

theorem wrTxB0 (v : Word) : Statement (.wrTxB0 v) := fun _ =>
  ⟨⟨"WR_TX_B0", .bus, 0x4700000000, 0x7F00000000⟩, by decide, rfl, write_matches _ 7 _⟩

theorem wrTxB1 (v : Word) : Statement (.wrTxB1 v) := fun _ =>
  ⟨⟨"WR_TX_B1", .bus, 0x4800000000, 0x7F00000000⟩, by decide, rfl, write_matches _ 8 _⟩

theorem wrTxStop (v : Word) : Statement (.wrTxStop v) := fun _ =>
  ⟨⟨"WR_TX_STOP", .bus, 0x4900000000, 0x7F00000000⟩, by decide, rfl, write_matches _ 9 _⟩

theorem wrTxTrl0 (v : Word) : Statement (.wrTxTrl0 v) := fun _ =>
  ⟨⟨"WR_TX_TRL0", .bus, 0x4A00000000, 0x7F00000000⟩, by decide, rfl, write_matches _ 10 _⟩

theorem wrTxTrl1 (v : Word) : Statement (.wrTxTrl1 v) := fun _ =>
  ⟨⟨"WR_TX_TRL1", .bus, 0x4B00000000, 0x7F00000000⟩, by decide, rfl, write_matches _ 11 _⟩

theorem wrErr (v : Word) : Statement (.wrErr v) := fun _ =>
  ⟨⟨"WR_ERR", .bus, 0x4E00000000, 0x7F00000000⟩, by decide, rfl, write_matches _ 14 _⟩

theorem wrIntRaw (v : Word) : Statement (.wrIntRaw v) := fun _ =>
  ⟨⟨"WR_INT_RAW", .bus, 0x4F00000000, 0x7F00000000⟩, by decide, rfl, write_matches _ 15 _⟩

theorem wrIntEna (v : Word) : Statement (.wrIntEna v) := fun _ =>
  ⟨⟨"WR_INT_ENA", .bus, 0x5000000000, 0x7F00000000⟩, by decide, rfl, write_matches _ 16 _⟩

theorem wrIgnored (waddr : WAddr) (data : Word) : Statement (.wrIgnored waddr data) := fun _ =>
  ⟨⟨"WR_IGNORED", .bus, 0x4000000000, 0x4000000000⟩, by decide, rfl,
    Bool.and_eq_true_iff.mpr ⟨rfl, beq_iff_eq.mpr (write_masked 1 waddr data)⟩⟩

theorem busRead (waddr : WAddr) (data : Word) : Statement (.busRead waddr data) := fun _ =>
  ⟨⟨"BUS_READ", .bus, 0x0, 0x4000000000⟩, by decide, rfl,
    Bool.and_eq_true_iff.mpr ⟨rfl, beq_iff_eq.mpr (write_masked 0 waddr data)⟩⟩

end Sys2Proof.Laws.RowMatch
end

