-- ==== Sys2Proof/Tests/Slice0.lean ====
section
/-! SUPPORT. Tests. Every expected word and value is one of 95_test_vectors.md (its section is named) or written out from
the encodings of 30_encoding.md R81 to R92. Then one witness for each obligation that has hypotheses. -/

open Sys2Proof Sys2Proof.Machine

namespace Sys2Proof.Tests

/-! ## Helpers -/

/-- One event, seen through a field. -/
def after {α : Type} (i : Instr) (s : State) (f : State → α) : Option α :=
  match exec i s with
  | .next t => some (f t)
  | .fault _ | .refused _ => none

/-- Two events, seen through a field. -/
def after2 {α : Type} (i j : Instr) (s : State) (f : State → α) : Option α :=
  match exec i s with
  | .next t => after j t f
  | .fault _ | .refused _ => none

/-- An open capture that holds these whole bytes, none of them 0 unless left out of the buffer. -/
def captured (bytes : List Byte) (s : State) : State :=
  { s with rx := ⟨true, 0, 0, BitVec.ofNat 16 bytes.length,
    bytes.zipIdx.filterMap fun x => if x.1 = 0 then none else some (x.2, x.1), .bit0⟩ }

/-- The decode of these bytes under a CFG and a VARIANT: RESULT and RESULT_RAW. -/
def decoded (cfg variant : Word) (bytes : List Byte) : Option (Word × Word) :=
  after (.rxEnd 0) (captured bytes { State.reset with cfg := cfg, variant := variant }) fun t => (t.result, t.resultRaw)

/-- A state in which a transmission of B2 BF E0 is at frame `f`, slot `n`, `k` pairs done. -/
def sending (f : BitVec 2) (n : BitVec 6) (k : Byte) : State :=
  let s := startTx 0xB2 0xBF 0xE0 State.reset
  { s with tx := { presentAt f n s.tx with pairs := k } }

/-- The reset state with one clock edge pending. -/
def pending (c : Cycle) : State := { State.reset with inputs := [c] }

/-- A transmission whose first word, the Header, is on the air whole. -/
def onAir : System := { machine := sending 0 0 0, agents := { rx := .idle, tx := .sent 0x11309130 } }

/-! ## Well-formedness refuses what is no operand -/

theorem test_wf_illegal_op : (Instr.cmdIllegal 0 0).wellFormed = false ∧ (Instr.cmdIllegal 0 1).wellFormed = false ∧
    (Instr.cmdIllegal 0 2).wellFormed = true := by decide
theorem test_wf_ignored_address : (Instr.wrIgnored 0 0).wellFormed = false ∧ (Instr.wrIgnored 12 0).wellFormed = false ∧
    (Instr.wrIgnored 16 0).wellFormed = false ∧ (Instr.wrIgnored 13 0).wellFormed = true ∧
    (Instr.wrIgnored 17 0).wellFormed = true := by decide
theorem test_reject_wide_rx : decodeBits .rx (2 ^ 34) = .error .rxWordTooWide := by decide
theorem test_reject_wide_resp : decodeBits .resp 2 = .error .respWordTooWide := by decide
theorem test_reject_wide_bus : decodeBits .bus (2 ^ 39) = .error .busWordTooWide := by decide

/-! ## Every constructor's word decodes (R92; R97 to R99) -/

theorem test_decode_rx : decode (.rx 0x00654821C) = .rxPair ⟨540, .mark, 1620, .space⟩ ∧
    decode (.rx 0x100000000) = .rxEnd 0 ∧ decode (.rx 0x200000005) = .rxNodata 5 ∧
    decode (.rx 0x3FFFFFFFF) = .rxRsvd 0xFFFFFFFF := by decide
theorem test_decode_resp : decode (.resp 0) = .txDone ∧ decode (.resp 1) = .txFail := by decide
theorem test_decode_cmd : decode (.bus 0x4CFFFFFFF0) = .cmdNop 0xFFFFFFF ∧
    decode (.bus 0x4C56341201) = .cmdTxStart 0x56 0x34 0x12 0 ∧ decode (.bus 0x4C789ABC01) = .cmdTxStart 0x78 0x9A 0xBC 0 ∧
    decode (.bus 0x4C0000000F) = .cmdIllegal 0 15 := by decide
theorem test_decode_config : decode (.bus 0x400000000D) = .wrCfg 0xD ∧ decode (.bus 0x4100000067) = .wrVariant 0x67 ∧
    decode (.bus 0x4200000001) = .wrHdrWin 1 ∧ decode (.bus 0x430000FFFF) = .wrB0Win 0xFFFF ∧
    decode (.bus 0x44073A02BD) = .wrB1Win 0x073A02BD ∧ decode (.bus 0x4500000001) = .wrStopWin 1 := by decide
theorem test_decode_emission : decode (.bus 0x4600000001) = .wrTxHdr 1 ∧ decode (.bus 0x4700000001) = .wrTxB0 1 ∧
    decode (.bus 0x4807D00200) = .wrTxB1 0x07D00200 ∧ decode (.bus 0x4900000001) = .wrTxStop 1 ∧
    decode (.bus 0x4A44332211) = .wrTxTrl0 0x44332211 ∧ decode (.bus 0x4B00006655) = .wrTxTrl1 0x6655 := by decide
theorem test_decode_bookkeeping : decode (.bus 0x4E0000003F) = .wrErr 0x3F ∧ decode (.bus 0x4F00000007) = .wrIntRaw 7 ∧
    decode (.bus 0x5000000004) = .wrIntEna 4 ∧ decode (.bus 0x4DFFFFFFFF) = .wrIgnored 13 0xFFFFFFFF ∧
    decode (.bus 0x7F00000005) = .wrIgnored 63 5 ∧ decode (.bus 0x0E00000000) = .busRead 14 0 := by decide
theorem test_encode : encode (.rxPair ⟨540, .mark, 1620, .space⟩) = .rx 0x00654821C ∧
    encode (.cmdTxStart 0xE0 0xBF 0xB2 0) = .bus 0x4CE0BFB201 ∧ encode (.busRead 17 0) = .bus 0x1100000000 := by decide
theorem test_table_word : decodeTableWord 40 0x1100000000 = some (.busRead 17 0) ∧
    decodeTableWord 40 0x100000000 = some (.rxEnd 0) ∧ decodeTableWord 40 0x011309130 = some (.rxPair
      ⟨4400, .mark, 4400, .space⟩) ∧ decodeTableWord 8 1 = some .txFail ∧ decodeTableWord 8 2 = none ∧
    decodeTableWord 40 (2 ^ 39) = none := by decide
theorem test_fetch_word : (match step (State.reset.withFetchWord 40 0x300000000) with
    | .next t => some (t.err, t.inputs)
    | .fault _ | .refused _ => none) = some (0x10, []) := by decide

/-! ## The classifier (95 section 2.1) -/

theorem test_classify_bits : [0x021C821C, 0x0190821C, 0x015E821C, 0x02BC821C, 0x02589130, 0x015E8000].map
    (fun w => classify State.reset (pairOfWord w)) = List.replicate 6 .bit0 ∧
    [0x0654821C, 0x02BD821C, 0x073A821C, 0x06549130, 0x03E8FFFF].map
    (fun w => classify State.reset (pairOfWord w)) = List.replicate 5 .bit1 := by decide
theorem test_classify_others : [0x11309130, 0x12C08FA0].map
    (fun w => classify State.reset (pairOfWord w)) = List.replicate 2 .header ∧
    [0x1464821C, 0x1324821C, 0x15E0821C, 0x14649130].map
    (fun w => classify State.reset (pairOfWord w)) = List.replicate 4 .stop ∧
    [0x015D821C, 0x073B821C, 0x1323821C, 0x15E1821C, 0x11308F9F, 0x0F9F9130, 0x113092C1, 0x12C19130, 0x00008000,
      0x821C021C, 0x821C821C, 0x021C021C].map
    (fun w => classify State.reset (pairOfWord w)) = List.replicate 12 .noise := by decide
theorem test_classify_empty_window :
    after (.wrB0Win 0x0000FFFF) State.reset (fun t => classify t (pairOfWord 0x021C821C)) = some .bit1 := by decide

/-! ## The receive path (95 sections 2.2, 2.3) -/

theorem test_rx_pair_bit : after (.rxPair (pairOfWord 0x0654821C)) State.reset statusWord = some 0x00000165 := by decide
theorem test_rx_pair_noise : after (.rxPair (pairOfWord 0x821C021C)) State.reset statusWord = some 0x000000A1 := by decide
theorem test_rx_byte : rxByte 0xB2 = [true, false, true, true, false, false, true, false].map rxBit ∧
    (rxFrame 0xB2 0x7B 0xE0).length = 50 := by decide
theorem test_rx_end_flushes : after (.rxEnd 0) { State.reset with rx := ⟨true, 0x18, 5, 0, [], .bit0⟩ }
    (fun t => (t.rx.buf, t.rx.count, t.result, t.intRaw, statusWord t)) =
    some ([(0, 0xC0)], 1, 0x0000000E, 1, 0x40) := by decide
theorem test_rx_end_empty : after (.rxEnd 0) State.reset (fun t => (t.result, t.rx.count, t.err)) = some (1, 0, 0) := by
  decide
theorem test_rx_nodata : after (.rxNodata 0) { State.reset with rx := ⟨true, 2, 2, 0, [], .bit0⟩ }
    (fun t => (statusWord t, t.rx.count, t.result, t.resultRaw, t.intRaw)) = some (0, 0, 1, 0, 1) := by decide
theorem test_rx_rsvd : after (.rxRsvd 0) State.reset (fun t => (t.err, t.intRaw)) = some (0x10, 4) := by decide
theorem test_rx_overflow : after (.rxPair (pairOfWord 0x021C821C)) { State.reset with rx := ⟨true, 0x10, 7, 32, [], .bit0⟩ }
    (fun t => (t.rx.count, t.rx.buf, t.err, t.intRaw)) = some (33, [], 8, 4) := by decide

theorem test_decode_sentinels : decoded 5 0x47 [0xB2, 0x4D, 0x7B, 0x84, 0xE0, 0x1F] = some (2, 0) ∧
    decoded 5 0x47 [0xB2, 0x4D, 0xF5, 0x0A, 0x04, 0xFB] = some (3, 0) ∧
    decoded 5 0x47 [0xB2, 0x4D, 0xF5, 0x0A, 0x05, 0xFA] = some (4, 0) ∧
    decoded 5 0x5F [0xB2, 0x4D, 0x6B, 0x94, 0xE0, 0x1F] = some (5, 0) ∧
    decoded 5 0x5F [0xB5, 0x4A, 0xF5, 0x0A, 0x00, 0xFF] = some (6, 0) := by decide
theorem test_decode_settings : decoded 5 0x47 [0xB2, 0x4D, 0x9F, 0x60, 0xDC, 0x23] = some (0x1A0E27, 0xD34) ∧
    decoded 5 0x47 [0xB2, 0x4D, 0xBF, 0x40, 0xE0, 0x1F] = some (0x207, 0xE05) ∧
    decoded 5 0x67 [0xB2, 0x4D, 0xBF, 0x40, 0xE0, 0x1F] = some (0x001F1A07, 0xE05) ∧
    decoded 5 0x67 [0xB2, 0x4D, 0xBF, 0x40, 0xF0, 0x0F] = some (0x00100A07, 0xF05) ∧
    decoded 5 0x00 [0xB2, 0x4D, 0x1F, 0xE0, 0x00, 0xFF] = some (0x110B07, 0) := by decide
theorem test_decode_malformed : decoded 5 0x47 [0xB2, 0x4D, 0x7B, 0x84, 0xE0] = some (0xE, 0) ∧
    decoded 5 0x47 [0xB2] = some (0xE, 0) ∧ decoded 5 0x47 [0xB2, 0x4C, 0xBF, 0x40, 0xE0, 0x1F] = some (0x16, 0) ∧
    decoded 4 0x47 [0xB2, 0x4C, 0xBF, 0x40, 0xE0, 0x1F] = some (0x207, 0xE05) := by decide
theorem test_temperatures : ((List.range 14).map fun k => (tempMap 0x47 (BitVec.ofNat 4 k)).2.2) =
    [17, 18, 20, 19, 24, 23, 21, 22, 28, 27, 29, 30, 25, 26] := by decide

/-! ## The transmit path (95 section 2.4) -/

theorem test_tx_start : after (.cmdTxStart 0xE0 0xBF 0xB2 0) State.reset
    (fun t => (t.tx.word, statusWord t, txPosWord t.tx, txLatchWord t.tx)) = some (0x11309130, 2, 0, 0x00E0BFB2) := by
  decide
theorem test_tx_start_busy : after (.cmdTxStart 0x78 0x9A 0xBC 0) (sending 0 0 0)
    (fun t => (t.err, t.intRaw, txLatchWord t.tx)) = some (2, 4, 0x00E0BFB2) := by decide
theorem test_tx_done_next : after .txDone (sending 0 49 49) (fun t => (txPosWord t.tx, t.tx.word, t.intRaw)) =
    some (0x3240, 0x11309130, 0) := by decide
theorem test_tx_done_last : after .txDone (sending 1 49 99)
    (fun t => (txPosWord t.tx, t.tx.word, t.tx.valid, t.tx.busy, t.intRaw)) = some (0x6400, 0, false, false, 2) := by decide
theorem test_slots : ((List.range 9).map fun k => pairWord (sending 0 0 0).tx 0 k) =
    [0x11309130, 0x0654821C, 0x021C821C, 0x0654821C, 0x0654821C, 0x021C821C, 0x021C821C, 0x0654821C, 0x021C821C] ∧
    ((List.range 9).map fun k => pairWord (sending 0 0 0).tx 1 (41 + k)) =
    [0x021C821C, 0x021C821C, 0x021C821C, 0x0654821C, 0x0654821C, 0x0654821C, 0x0654821C, 0x0654821C, 0x1464821C] := by
  decide
theorem test_snapshot : after2 (.wrTxB1 0x07D00200) .txDone (sending 0 0 0) (fun t => t.tx.word) = some 0x0654821C ∧
    after2 (.wrTxB1 0x07D00200) (.cmdTxStart 0xE0 0xBF 0xB2 0) State.reset
      (fun t => pairWord t.tx 0 1) = some 0x07D08200 := by decide
theorem test_tx_fail : after .txFail (sending 0 10 10)
    (fun t => (txPosWord t.tx, t.err, t.intRaw, t.tx.busy)) = some (0x0A0A, 4, 4, false) := by decide
theorem test_tx_spurious : after .txDone State.reset (fun t => (t.err, t.intRaw)) = some (0x20, 4) ∧
    after .txFail State.reset (fun t => (t.err, t.intRaw)) = some (0x20, 4) := by decide

/-! ## The host bus (95 sections 2.5 to 2.7) -/

theorem test_wr_cfg : after (.wrCfg 0) State.reset State.cfg = some 4 ∧
    after (.wrCfg 0xFFFFFFFF) State.reset State.cfg = some 0xF ∧ after (.wrCfg 1) State.reset State.cfg = some 5 ∧
    after (.wrCfg 6) State.reset State.cfg = some 6 ∧ after (.wrCfg 8) State.reset State.cfg = some 0xC := by decide
theorem test_wr_masks : after (.wrVariant 0xFFFFFFFF) State.reset State.variant = some 0x7F ∧
    after (.wrHdrWin 0xFFFFFFFF) State.reset State.hdrWin = some 0x7FFF7FFF ∧
    after (.wrB0Win 0xFFFFFFFF) State.reset State.b0Win = some 0x7FFF7FFF ∧
    after (.wrB1Win 0xFFFFFFFF) State.reset State.b1Win = some 0x7FFF7FFF ∧
    after (.wrStopWin 0xFFFFFFFF) State.reset State.stopWin = some 0x7FFF7FFF := by decide
theorem test_wr_emission_masks : after (.wrTxHdr 0xFFFFFFFF) State.reset State.txHdr = some 0x7FFF7FFF ∧
    after (.wrTxB0 0xFFFFFFFF) State.reset State.txB0 = some 0x7FFF7FFF ∧
    after (.wrTxB1 0xFFFFFFFF) State.reset State.txB1 = some 0x7FFF7FFF ∧
    after (.wrTxStop 0xFFFFFFFF) State.reset State.txStop = some 0x7FFF7FFF ∧
    after (.wrTxTrl0 0xFFFFFFFF) State.reset State.txTrl0 = some 0xFFFFFFFF ∧
    after (.wrTxTrl1 0xFFFFFFFF) State.reset State.txTrl1 = some 0xFFFF := by decide
theorem test_cmd_illegal : after (.cmdIllegal 0 15) State.reset (fun t => (t.err, t.intRaw)) = some (1, 4) := by decide
theorem test_cmd_nop : after (.cmdNop 0xFFFFFFF) State.reset id = some State.reset := by decide
theorem test_wr_ignored : after (.wrIgnored 17 5) State.reset id = some State.reset := by decide
theorem test_wr_err : after2 (.rxRsvd 0) (.wrErr 0x10) State.reset (fun t => (t.err, t.intRaw)) = some (0, 4) ∧
    after2 (.rxRsvd 0) (.wrErr 0x1) State.reset (fun t => (t.err, t.intRaw)) = some (0x10, 4) := by decide
theorem test_wr_int : after2 (.wrIntEna 4) (.rxRsvd 0) State.reset irq = some true ∧
    after2 (.rxRsvd 0) (.wrIntRaw 4) State.reset (fun t => (t.err, t.intRaw)) = some (0x10, 0) ∧
    after (.wrIntEna 0xFFFFFFFF) State.reset State.intEna = some 7 := by decide
theorem test_reset_reads : ((List.range 64).map fun a => readWord State.reset (BitVec.ofNat 6 a)) =
    [5, 0x47, 0x12C00FA0, 0x02BC015E, 0x073A015E, 0x15E01324, 0x11301130, 0x021C021C, 0x0654021C, 0x1464021C] ++
      List.replicate 54 0 := by decide
theorem test_read_rx_bytes : after (.busRead 33 0) (captured [0xB2, 0x4D, 0xBF, 0x40, 0xE0, 0x1F, 0xB2, 0x4D] State.reset)
    State.rdata = some 0x4DB21FE0 := by decide

/-! ## The agents' duties (60_exceptions.md R248, R249; 70_reset_and_hazards.md R277) -/

theorem test_done_in_cycle_of_start : (System.start.move (.edge ⟨true, some 0x4CE0BFB201, none, some 0⟩)).isNone = true ∧
    (System.start.move (.edge ⟨true, some 0x4CE0BFB201, none, none⟩)).isSome = true := by decide
theorem test_answer_once : (System.run [.edge ⟨true, none, none, some 0⟩, .edge ⟨true, none, none, some 0⟩] onAir).isNone =
    true ∧ (onAir.move (.edge ⟨true, none, none, some 1⟩)).isNone = true := by decide
theorem test_transmit_then_done : ((System.run [.edge ⟨true, some 0x4CE0BFB201, none, none⟩, .transmit .mark 4400,
    .transmit .space 4400, .edge ⟨true, none, none, some 0⟩] System.start).map fun z => z.machine.tx.word) =
    some 0x0654821C ∧ (System.run [.edge ⟨true, some 0x4CE0BFB201, none, none⟩, .transmit .mark 540] System.start).isNone =
    true := by decide
theorem test_fail_needs_failure : ((System.run [.edge ⟨true, some 0x4CE0BFB201, none, none⟩, .transmitFailure,
    .edge ⟨true, none, none, some 1⟩] System.start).map fun z => z.machine.err) = some 4 := by decide
theorem test_nodata_needs_timeout : ((System.run [.timeOut, .edge (cycleOf (.rx 0x200000000))] System.start).map
    fun z => z.machine.result) = some 1 ∧ (System.run [.receive [⟨540, .mark, 540, .space⟩],
    .edge (cycleOf (.rx 0x0021C821C)), .edge (cycleOf (.rx 0x200000000))] System.start).isNone = true := by decide
theorem test_end_needs_whole_batch : (System.run [.receive [⟨540, .mark, 540, .space⟩], .edge (cycleOf (.rx 0x100000000))]
    System.start).isNone = true ∧ (System.start.move (.edge (cycleOf (.rx 0x300000000)))).isNone = true := by decide
theorem test_change_while_open : let s := { State.reset with rx := ⟨true, 0, 0, 0, [], .header⟩ }
    keepsDuty s ⟨.idle, .idle⟩ (.wrB0Win 0x02BC015E) = true ∧ keepsDuty s ⟨.idle, .idle⟩ (.wrB0Win 0x02BC015F) = false ∧
    keepsDuty s ⟨.idle, .idle⟩ (.wrCfg 0xB) = true ∧ keepsDuty s ⟨.idle, .idle⟩ (.wrCfg 0xA) = false ∧
    keepsDuty s ⟨.idle, .idle⟩ (.wrTxB0 0) = true := by decide

/-! ## Witnesses: for each obligation with hypotheses, a concrete case that meets them -/

theorem witness_DecodeEncodeRoundTrip : (Instr.cmdIllegal 0xABCDEF1 15).wellFormed = true ∧
    (Instr.wrIgnored 63 7).wellFormed = true := by decide
theorem witness_CmdWriteDispatch : (0xFFFFFFF0 : Word).toNat % 16 = 0 ∧ (0xE0BFB2F1 : Word).toNat % 16 = 1 ∧
    2 ≤ (0x2 : Word).toNat % 16 ∧ 2 ≤ (0xF : Word).toNat % 16 := by decide
theorem witness_StepRunsDecodedInstruction :
    (pending ⟨true, some 0x5000000001, none, some 0⟩).inputs = [⟨true, some 0x5000000001, none, some 0⟩] ∧
    takeEvent ⟨true, some 0x5000000001, none, some 0⟩ = some (.bus 0x5000000001, ⟨true, none, none, some 0⟩) ∧
    (pending ⟨true, none, none, none⟩).inputs = [⟨true, none, none, none⟩] ∧ State.reset.inputs = [] ∧
    tableWord 40 0x5000000001 = some (.bus 0x5000000001) := by decide
theorem witness_CycleOrderBusRxResponse :
    (pending ⟨true, some 0x5000000001, some 0x300000000, some 1⟩).inputs =
      [⟨true, some 0x5000000001, some 0x300000000, some 1⟩] := by decide
theorem witness_SetWinsOverClear :
    (pending ⟨true, some 0x4E0000003F, some 0x300000000, some 1⟩).inputs =
      [⟨true, some 0x4E0000003F, some 0x300000000, some 1⟩] ∧ decode (.bus 0x4E0000003F) = .wrErr 0x3F ∧
    decode (.bus 0x4F0000003F) = .wrIntRaw 0x3F := by decide
theorem witness_StartInCycleOfLastDoneIsDropped :
    let s := { sending 1 49 99 with inputs := [⟨true, some 0x4CE0BFB201, none, some 0⟩] }
    s.inputs = [⟨true, some 0x4CE0BFB201, none, some 0⟩] ∧ decode (.bus 0x4CE0BFB201) = .cmdTxStart 0xE0 0xBF 0xB2 0 ∧
    s.tx.busy = true ∧ s.tx.slot = 49 ∧ s.tx.frame.toNat + 1 = s.tx.snap.reps.toNat + s.tx.snap.trlEn.toNat := by decide
theorem witness_ResetHoldsEveryElement :
    (pending ⟨false, some 0x4000000003, none, none⟩).inputs = [⟨false, some 0x4000000003, none, none⟩] := by decide
theorem witness_ClassifyAtResetWindows : State.reset.hdrWin = 0x12C00FA0 ∧ State.reset.b0Win = 0x02BC015E ∧
    State.reset.b1Win = 0x073A015E ∧ State.reset.stopWin = 0x15E01324 ∧
    (pairOfWord 0x821C021C).l0 ≠ .mark ∧ pairOfWord 0x12C08FA0 = ⟨4000, .mark, 4800, .space⟩ ∧
    [0x015D821C, 0x015E821C, 0x02BC821C, 0x02BD821C, 0x073A821C, 0x073B821C, 0x1323821C, 0x1324821C, 0x15E0821C,
      0x15E1821C].map (fun w => pairOfWord w) = [349, 350, 700, 701, 1850, 1851, 4899, 4900, 5600, 5601].map
        fun d => ⟨540, .mark, d, .space⟩ := by decide
theorem witness_ClassifierIsFirstMatch :
    polarityOk ⟨540, .mark, 540, .space⟩ = true ∧ polarityOk ⟨540, .space, 540, .mark⟩ = false ∧
    inWin 4400 State.reset.hdrWin = true ∧ inWin 700 State.reset.b0Win = true ∧
    (inWin 701 State.reset.b0Win = false ∧ inWin 701 State.reset.b1Win = true) ∧
    (inWin 4900 State.reset.b1Win = false ∧ inWin 4900 State.reset.stopWin = true) ∧
    (inWin 5601 State.reset.hdrWin || inWin 5601 State.reset.b0Win || inWin 5601 State.reset.b1Win ||
      inWin 5601 State.reset.stopWin) = false := by decide
theorem witness_DisjointWindowsClassifyAlike : State.reset.b0Win = 0x02BC015E ∧ State.reset.b1Win = 0x073A015E := by
  decide
theorem witness_RxPairEffect :
    classify State.reset ⟨4400, .mark, 4400, .space⟩ = .header ∧ classify State.reset ⟨540, .mark, 540, .space⟩ = .bit0 ∧
    classify State.reset ⟨540, .mark, 1620, .space⟩ = .bit1 ∧ State.reset.rx.nbits.toNat < 7 ∧
    appendAddr ⟨true, 1, 7, 31, [], .bit0⟩ = some 31 ∧ Memory.wf [] ∧
    appendAddr ⟨true, 1, 7, 32, [], .bit0⟩ = none ∧ (7 : BitVec 3).toNat = 7 := by decide
theorem witness_RxEndEffect : State.reset.rx.nbits = 0 ∧ appendAddr ⟨true, 1, 1, 31, [(0, 0xFF)], .bit0⟩ = some 31 ∧
    Memory.wf [(0, 0xFF)] ∧ appendAddr ⟨true, 1, 1, 32, [], .bit0⟩ = none ∧ (1 : BitVec 3) ≠ 0 := by decide
/-- One capture for each clause, at the byte counts 0, 1, 5 and 6: 95 section 2.3. -/
theorem witness_RxEndResultPrecedence :
    [decoded 5 0x5F [], decoded 5 0x5F [0xB2], decoded 5 0x5F [0xB2, 0x4D, 0x7B, 0x84, 0xE0],
      decoded 5 0x5F [0xB2, 0x4D, 0x7B, 0x85, 0xE0, 0x1F], decoded 5 0x5F [0xB2, 0x4D, 0x7B, 0x84, 0xE0, 0x1F],
      decoded 5 0x5F [0xB5, 0x4A, 0xF5, 0x0A, 0x04, 0xFB], decoded 5 0x5F [0xB2, 0x4D, 0xF5, 0x0A, 0x05, 0xFA],
      decoded 5 0x5F [0xB2, 0x4D, 0x6B, 0x94, 0xE0, 0x1F], decoded 5 0x5F [0xB5, 0x4A, 0xF5, 0x0A, 0x00, 0xFF],
      decoded 5 0x5F [0xB2, 0x4D, 0xBF, 0x40, 0xE0, 0x1F]].map (fun o => o.map Prod.fst) =
    [some 1, some 0xE, some 0xE, some 0x16, some 2, some 3, some 4, some 5, some 6, some 0x207] := by decide
/-- A SETTINGS result at temperature codes 13, 14 and 15, with TEMP_EXT_EN 0 and 1. -/
theorem witness_SettingsFields : ([(0x47, 0xD0, 0x2F), (0x47, 0xE0, 0x1F), (0x47, 0xF0, 0x0F), (0x67, 0xE0, 0x1F),
      (0x67, 0xF0, 0x0F)].map fun (v, b4, b5) =>
      (decoded 5 v [0xB2, 0x4D, 0xBF, 0x40, b4, b5]).map fun r => (r.1.extractLsb' 0 3, v.getLsbD 5)) =
    [some (7, false), some (7, false), some (7, false), some (7, true), some (7, true)] := by decide
theorem witness_PowerOffProperty : (0x47 : Word).getLsbD 0 = true ∧ (4 : Word).getLsbD 0 = false ∧
    (5 : Word).getLsbD 0 = true ∧
    [[0xB2, 0x4D, 0x7B, 0x84, 0xE0, 0x1F], [0x00, 0x00, 0x7B, 0x00, 0xE0, 0x00]].map
      (fun l => after (.rxEnd 0) (captured l State.reset) fun t =>
        (t.rx.count, Memory.read t.rx.buf 2, Memory.read t.rx.buf 4, Memory.read t.rx.buf 5)) =
      [some (6, 0x7B, 0xE0, 0x1F), some (6, 0x7B, 0xE0, 0x00)] := by decide
theorem witness_DecodeReadsOnlySixBytes :
    [[0xB2, 0x4D, 0x7B, 0x84, 0xE0, 0x1F], [0xB2, 0x4D, 0x7B, 0x84, 0xE0, 0x1F, 0x99]].map
      (fun l => after (.rxEnd 0) (captured l State.reset) fun t =>
        (decide (6 ≤ t.rx.count.toNat), (List.range 6).map fun k => Memory.read t.rx.buf k)) =
      List.replicate 2 (some (true, [0xB2, 0x4D, 0x7B, 0x84, 0xE0, 0x1F])) := by decide
theorem witness_NodataLikeEmptyEnd : ReceiveOk ⟨true, 0, 0, 0, [], .header⟩ :=
  ⟨by decide, fun _ _ => rfl, by decide, fun h => absurd h (by decide), fun _ => by decide⟩
theorem witness_PackingAndCountLaw : State.reset.rx.isOpen = false := by decide
theorem witness_RxFrameGivesItsBytes : State.reset.rx.isOpen = false ∧ State.reset.hdrWin = 0x12C00FA0 ∧
    State.reset.b0Win = 0x02BC015E ∧ State.reset.b1Win = 0x073A015E ∧ State.reset.stopWin = 0x15E01324 := by decide
theorem witness_NoDecodeDependsOnAnEarlierCapture :
    let u := { State.reset with rx := ⟨false, 0, 0, 1, [(0, 0xC0)], .bit0⟩, result := 0xE }
    State.reset.rx.isOpen = false ∧ u.rx.isOpen = false ∧ u.hdrWin = State.reset.hdrWin ∧ u.b0Win = State.reset.b0Win ∧
    u.b1Win = State.reset.b1Win ∧ u.stopWin = State.reset.stopWin ∧ u.cfg.getLsbD 0 = State.reset.cfg.getLsbD 0 ∧
    u.variant = State.reset.variant := by decide
theorem witness_TxStartAccepted : State.reset.tx.busy = false := by decide
theorem witness_TxStartWhileBusyDropped : (sending 0 0 0).tx.busy = true := by decide
theorem witness_TxDoneAdvances : (sending 0 48 48).tx.busy = true ∧ (sending 0 48 48).tx.slot.toNat < 49 ∧
    (49 ≤ (sending 0 49 49).tx.slot.toNat ∧ (sending 0 49 49).tx.frame.toNat + 1 < 2) ∧
    (49 ≤ (sending 1 49 99).tx.slot.toNat ∧ (sending 1 49 99).tx.snap.reps.toNat +
      (sending 1 49 99).tx.snap.trlEn.toNat ≤ (sending 1 49 99).tx.frame.toNat + 1) := by decide
theorem witness_SlotWords : 1 < (sending 0 0 0).tx.snap.reps.toNat ∧ ¬2 < (sending 0 0 0).tx.snap.reps.toNat := by decide
theorem witness_TxFailEndsSequence : (sending 1 10 60).tx.busy = true := by decide
theorem witness_ResponseWhileIdleIsSpurious : State.reset.tx.busy = false := by decide
theorem witness_SequenceLaw : State.reset.tx.busy = false ∧ cfgRepeat State.reset.cfg ≠ 0 ∧
    Instr.txFail ∉ [.txDone, .wrCfg 0, .txDone] ∧
    [Instr.txDone, .wrCfg 0, .txDone].count .txDone < 50 * (State.reset.cfg.toNat / 2 % 4) := by decide
theorem witness_NoCancellation : (sending 0 3 3).tx.busy = true ∧ Instr.cmdTxStart 0 0 0 0 ≠ .txDone ∧
    Instr.cmdTxStart 0 0 0 0 ≠ .txFail := by decide
theorem witness_RunningSequenceReadsOnlySnapshot :
    ({ sending 0 3 3 with txB1 := 0x07D00200, cfg := 0xF } : State).tx = (sending 0 3 3).tx := by decide
theorem witness_BalanceLaw : 1 < (sending 0 0 0).tx.snap.reps.toNat ∧
    (sending 0 0 0).tx.snap.hdr = durPair 0x11301130 ∧ (sending 0 0 0).tx.snap.b0 = durPair 0x021C021C ∧
    (sending 0 0 0).tx.snap.b1 = durPair 0x0654021C ∧ (sending 0 0 0).tx.snap.stop = durPair 0x1464021C := by decide
theorem witness_LoopbackRoundTrip : State.reset.tx.busy = false ∧ State.reset.rx.isOpen = false ∧
    cfgRepeat State.reset.cfg ≠ 0 ∧
    [State.reset.txB0, State.reset.txB1, State.reset.txHdr, State.reset.txStop].map
      (fun w => classify State.reset (pairOfWord (wordOfDurPair (durPair w)))) = [.bit0, .bit1, .header, .stop] := by decide
theorem witness_BusReadMap : [13, 19, 20, 21, 22, 31, 32, 39, 40, 63].map (fun n => (BitVec.ofNat 6 n).toNat) =
    [13, 19, 20, 21, 22, 31, 32, 39, 40, 63] := by decide
theorem witness_RegisterWriteResults : (0xE : Word).toNat / 2 % 4 ≠ 0 ∧ (0xFFFFFFF9 : Word).toNat / 2 % 4 = 0 := by decide
theorem witness_AccessesAreIdempotent : isRegisterAccess (.wrErr 5) = true ∧ isRegisterAccess (.busRead 13 0) = true := by
  decide
/-- Each cause is newly set by some event: ERR bits 0 to 5 in order. -/
theorem witness_ErrBitsOnlyByTheirCause :
    [after (.cmdIllegal 0 2) State.reset State.err, after (.cmdTxStart 1 2 3 0) (sending 0 0 0) State.err,
      after .txFail (sending 0 0 0) State.err, after (.rxEnd 0) { State.reset with rx := ⟨true, 1, 1, 32, [], .bit1⟩ } State.err,
      after (.rxRsvd 0) State.reset State.err, after .txDone State.reset State.err] =
    [some 1, some 2, some 4, some 8, some 16, some 32] := by decide
theorem witness_InterruptSources : [after (.rxEnd 0) State.reset State.intRaw,
      after .txDone (sending 1 49 99) State.intRaw, after (.rxRsvd 0) State.reset State.intRaw] =
    [some 1, some 2, some 4] := by decide
theorem witness_OnlyHostClearsErrAndIntRaw : ∃ t, exec (.rxRsvd 0) { State.reset with err := 1, intRaw := 1 } = .next t :=
  ⟨_, rfl⟩
theorem witness_AtMostOneCausePerEvent : (after (.rxRsvd 0) State.reset fun t => t.err.getLsbD 4) = some true ∧
    State.reset.err.getLsbD 4 = false := by decide
theorem witness_PathsLeaveEachOtherAlone : isRxEvent (.rxEnd 0) = true ∧ isTxEvent .txDone = true := by decide
theorem witness_PathsCommute : isRxEvent (.rxRsvd 0) = true ∧ isTxEvent (.cmdTxStart 0 0 0 0) = true := by decide
theorem witness_ConfigurationOnlyByItsWrite : after (.wrCfg 3) State.reset (fun t => decide (t.cfg ≠ 5)) = some true ∧
    after (.rxEnd 0) State.reset (fun t => decide (t.result ≠ 0)) = some true := by decide
/-- A word that is on the air may be answered; the bits of the machine and of the agents are those of `onAir`. -/
theorem witness_DutiesKeptNoProtocolError : (sending 0 0 0).tx.valid = (sending 0 0 0).tx.busy ∧
    keepsDuty (sending 0 0 0) ⟨.idle, .sent 0x11309130⟩ .txDone = true ∧
    after .txDone (sending 0 0 0) State.err = some 0 ∧
    ((onAir.move (.edge ⟨true, none, none, some 0⟩)).map fun z => (z.machine.tx.slot, z.agents.tx)) = some (1, .idle) ∧
    System.start.machine.tx.valid = false := by decide
theorem witness_DutifulMovesKeepAgentsOk : TransmitOk onAir.machine.tx ∧ AgentsOk onAir ∧
    (onAir.move (.edge ⟨true, none, none, some 0⟩)).isSome = true :=
  ⟨by constructor <;> decide, ⟨fun w h => by
    rcases h with h | h
    · exact TxTransport.noConfusion h
    · exact ⟨rfl, TxTransport.sent.inj h⟩, fun h => absurd h (by decide), fun h => absurd h (by decide)⟩, by decide⟩
theorem witness_BatchIsOneCapture : System.start.agents.rx = .idle ∧
    ((System.run [.receive [⟨540, .mark, 1620, .space⟩], .edge (cycleOf (.rx 0x00654821C)),
      .edge (cycleOf (.rx 0x100000000))] System.start).map fun z => (z.machine.rx.buf, z.agents)) =
      some ([(0, 0x80)], System.start.agents) ∧
    ((System.start.move (.receive [])).map fun z => z.agents.rx) = some (.batch []) := by decide
theorem witness_StepKeepsRegistersOk : RegistersOk State.reset ∧
    ∃ t, step (pending ⟨true, some 0x40FFFFFFF9, none, none⟩) = .next t := ⟨by constructor <;> decide, _, rfl⟩
theorem witness_StepKeepsReceiveOk : ReceiveOk ⟨true, 1, 1, 0, [], .bit1⟩ :=
  ⟨by decide, fun _ _ => rfl, by decide, fun h => absurd h (by decide), fun _ => by decide⟩
theorem witness_StepKeepsTransmitOk : TransmitOk (sending 1 49 99).tx := by constructor <;> decide
theorem witness_StepKeepsResultOk : ResultOk { State.reset with result := 0x1A0E27, resultRaw := 0xD34 } := by
  constructor <;> decide

end Sys2Proof.Tests
end

section
/-! The two paths: what an RX event and an event of the transmit path may change, said once for all of them, and that
what each does is the same whatever the other path has just done (00_scope.md R7). -/

namespace Sys2Proof.Machine

/-- All an RX event may do: a new receive path, new results, and bits it sets in ERR and INT_RAW. -/
structure RxEffect where
  rx : RxState
  result : Word
  resultRaw : Word
  errSet : Word
  intSet : Word

/-- All an event of the transmit path may do: a new transmit path, and bits it sets in ERR and INT_RAW. -/
structure TxEffect where
  tx : TxState
  errSet : Word
  intSet : Word

/-- The state after an RX event's effect. -/
def RxEffect.on (x : RxEffect) (s : State) : State :=
  { s with rx := x.rx, result := x.result, resultRaw := x.resultRaw, err := s.err ||| x.errSet,
           intRaw := s.intRaw ||| x.intSet }

/-- The state after a transmit event's effect. -/
def TxEffect.on (y : TxEffect) (s : State) : State :=
  { s with tx := y.tx, err := s.err ||| y.errSet, intRaw := s.intRaw ||| y.intSet }

/-- The paths meet in ERR and INT_RAW only, and there each only sets bits (60_exceptions.md R231). -/
theorem RxEffect.on_comm (x : RxEffect) (y : TxEffect) (s : State) : x.on (y.on s) = y.on (x.on s) := by
  simp only [RxEffect.on, TxEffect.on, BitVec.or_assoc, BitVec.or_comm x.errSet, BitVec.or_comm x.intSet]

/-- RX_END's effect. -/
def rxEndEffect (s : State) : RxEffect where
  rx := endRx s.rx
  result := resultWord (interpret { s with rx := endRx s.rx })
  resultRaw := resultRawWord (interpret { s with rx := endRx s.rx })
  errSet := if flushOvf (openRx s.rx) then errBit .rxOvf else 0
  intSet := (if flushOvf (openRx s.rx) then intBit .err else 0) ||| intBit .rxDone

theorem exec_rxEnd_effect (d : Word) (s : State) : exec (.rxEnd d) s = .next ((rxEndEffect s).on s) := by
  rw [exec_rxEnd, BitVec.or_assoc]; rfl

/-- An RX event has an RX effect, and the same one after any transmit effect. -/
theorem exec_rxEvent {i : Instr} (hi : isRxEvent i = true) (s : State) :
    ∃ x : RxEffect, exec i s = .next (x.on s) ∧ ∀ y : TxEffect, exec i (y.on s) = .next (x.on (y.on s)) := by
  cases i with
  | rxPair p =>
    exact ⟨⟨_, s.result, s.resultRaw, _, _⟩, exec_rxPair p s, fun y => exec_rxPair p (y.on s)⟩
  | rxEnd d => exact ⟨rxEndEffect s, exec_rxEnd_effect d s, fun y => exec_rxEnd_effect d (y.on s)⟩
  | rxNodata d =>
    refine ⟨⟨.reset, 1, 0, 0, intBit .rxDone⟩, ?_, fun y => ?_⟩
    · simp [exec_rxNodata, RxEffect.on]
    · simp [exec_rxNodata, RxEffect.on]
  | rxRsvd d => exact ⟨⟨s.rx, s.result, s.resultRaw, errBit .rxIllOp, intBit .err⟩, rfl, fun _ => rfl⟩
  | _ => exact absurd hi Bool.false_ne_true

/-- A transmit event has a transmit effect, and the same one after any RX effect. -/
theorem exec_txEvent {j : Instr} (hj : isTxEvent j = true) (s : State) :
    ∃ y : TxEffect, exec j s = .next (y.on s) ∧ ∀ x : RxEffect, exec j (x.on s) = .next (y.on (x.on s)) := by
  cases j with
  | txDone => exact ⟨⟨_, _, _⟩, exec_txDone s, fun x => exec_txDone (x.on s)⟩
  | txFail => exact ⟨⟨_, _, _⟩, exec_txFail s, fun x => exec_txFail (x.on s)⟩
  | cmdTxStart c b a ign =>
    by_cases hb : s.tx.busy = true
    · exact ⟨⟨s.tx, errBit .txBusyStart, intBit .err⟩, exec_txStart_busy c b a ign hb,
        fun x => exec_txStart_busy c b a ign (s := x.on s) hb⟩
    · rw [Bool.not_eq_true] at hb
      refine ⟨⟨(startTx a b c s).tx, 0, 0⟩, ?_, fun x => ?_⟩
      · rw [exec_txStart_idle c b a ign hb]; simp [TxEffect.on, startTx]
      · rw [exec_txStart_idle c b a ign (s := x.on s) hb]; simp [TxEffect.on, RxEffect.on, startTx, takeSnapshot]
  | _ => exact absurd hj Bool.false_ne_true

end Sys2Proof.Machine

open Sys2Proof Sys2Proof.Machine

/-- Settles O50: each path's events have that path's effect, which writes nothing else. -/
theorem pathsLeaveEachOtherAlone : Obligations.PathsLeaveEachOtherAlone := by
  refine ⟨fun i s hi => ?_, fun j s hj => ?_⟩
  · obtain ⟨x, hx, _⟩ := exec_rxEvent hi s
    exact ⟨x.on s, hx, rfl⟩
  · obtain ⟨y, hy, _⟩ := exec_txEvent hj s
    exact ⟨y.on s, hy, rfl⟩

/-- Settles O51: each event's effect is the same after the other's, and the two effects commute. -/
theorem pathsCommute : Obligations.PathsCommute := by
  intro i j s hi hj
  obtain ⟨x, hx, hxy⟩ := exec_rxEvent hi s
  obtain ⟨y, hy, hyx⟩ := exec_txEvent hj s
  refine ⟨y.on (x.on s), ?_, ?_⟩
  · rw [execAll_cons hx, execAll_cons (hyx x), execAll_nil]
  · rw [execAll_cons hy, execAll_cons (hxy y), execAll_nil, x.on_comm]

end
section
/-! One step, seen from an invariant: a step changes the pending input only, or runs one operation, or resets the block;
and what an operation that is none of a path's events leaves of that path. -/

namespace Sys2Proof.Machine

/-- All a step can do, up to the pending input: nothing, one operation, or a reset (60_exceptions.md R237,
70_reset_and_hazards.md R261). -/
theorem step_cases {s t : State} (h : step s = .next t) : ∃ x : List Cycle,
    t = { s with inputs := x } ∨ (∃ i, exec i { s with inputs := x } = .next t) ∨ t = { State.reset with inputs := x } := by
  unfold step at h
  split at h
  · next he => exact ⟨[], .inl (by rw [← he]; exact (Host.Outcome.next.inj h).symm)⟩
  · next c rest _ =>
    split at h
    · split at h
      · exact ⟨rest, .inl (Host.Outcome.next.inj h).symm⟩
      · next w c' _ => exact ⟨afterEvent c' rest, .inr (.inl ⟨decode w, h⟩)⟩
    · exact ⟨rest, .inr (.inr (Host.Outcome.next.inj h).symm)⟩

/-- What holds after reset, does not look at the pending input and is kept by every operation is kept by every step. -/
theorem step_keeps {P : State → Prop} (hreset : P State.reset) (hin : ∀ s x, P s → P { s with inputs := x })
    (hexec : ∀ i s t, P s → exec i s = .next t → P t) {s t : State} (hs : P s) (h : step s = .next t) : P t := by
  obtain ⟨x, rfl | ⟨i, hi⟩ | rfl⟩ := step_cases h
  · exact hin s x hs
  · exact hexec i _ t (hin s x hs) hi
  · exact hin _ x hreset

/-- The remaining host-bus operations leave both paths and the results. -/
theorem exec_hostEvent {i : Instr} (hr : isRxEvent i = false) (ht : isTxEvent i = false) (s : State) :
    ∃ t, exec i s = .next t ∧ t.rx = s.rx ∧ t.tx = s.tx ∧ t.result = s.result ∧ t.resultRaw = s.resultRaw := by
  cases i with
  | rxPair | rxEnd | rxNodata | rxRsvd => cases hr
  | txDone | txFail | cmdTxStart => cases ht
  | _ => exact ⟨_, rfl, rfl, rfl, rfl, rfl⟩

/-- An operation that is no RX event leaves the receive path and the results. -/
theorem exec_receive_unchanged {i : Instr} {s t : State} (hi : isRxEvent i = false) (h : exec i s = .next t) :
    t.rx = s.rx ∧ t.result = s.result ∧ t.resultRaw = s.resultRaw := by
  cases ht : isTxEvent i with
  | true =>
    obtain ⟨y, hy, _⟩ := exec_txEvent ht s
    cases hy.symm.trans h
    exact ⟨rfl, rfl, rfl⟩
  | false =>
    obtain ⟨u, hu, hrx, _, hres, hraw⟩ := exec_hostEvent hi ht s
    cases hu.symm.trans h
    exact ⟨hrx, hres, hraw⟩

/-- An operation that is no event of the transmit path leaves it. -/
theorem exec_tx_unchanged {i : Instr} {s t : State} (hi : isTxEvent i = false) (h : exec i s = .next t) :
    t.tx = s.tx := by
  cases hr : isRxEvent i with
  | true =>
    obtain ⟨x, hx, _⟩ := exec_rxEvent hr s
    cases hx.symm.trans h
    rfl
  | false =>
    obtain ⟨u, hu, _, htx, _⟩ := exec_hostEvent hr hi s
    cases hu.symm.trans h
    exact htx

end Sys2Proof.Machine
end

section
/-! The registers: a write stores no reserved bit (10_state.md R22), CFG.REPEAT stays nonzero (R23), and an event raises
defined bits of ERR and INT_RAW only. -/

namespace Sys2Proof.Machine

/-! ## Words whose reserved bits are 0 -/

/-- What is masked has none of the other bits. -/
theorem and_mask_reserved (v m : Word) : v &&& m &&& ~~~m = 0 := by
  rw [BitVec.and_assoc, BitVec.and_not_self]
  exact BitVec.and_zero

/-- Setting defined bits sets no reserved bit. -/
theorem or_reserved {x y m : Word} (hx : x &&& m = 0) (hy : y &&& m = 0) : (x ||| y) &&& m = 0 := by
  rw [BitVec.and_or_distrib_right, hx, hy]
  exact BitVec.or_zero

/-- A W1C write sets no bit. -/
theorem w1c_reserved {x m : Word} (hx : x &&& m = 0) (v mask : Word) : w1c x v mask &&& m = 0 := by
  unfold w1c
  rw [BitVec.and_assoc, BitVec.and_comm (not32 _), ← BitVec.and_assoc, hx]
  exact BitVec.zero_and

theorem errBit_reserved (c : ErrCause) : errBit c &&& ~~~0x3F = 0 := by cases c <;> decide

theorem intBit_reserved (e : IntSource) : intBit e &&& ~~~0x7 = 0 := by cases e <;> decide

/-- A bit that is set or not is a defined one if it is one when set. -/
theorem ite_reserved {x m : Word} (hx : x &&& m = 0) (b : Bool) : (if b then x else 0) &&& m = 0 := by
  cases b
  · exact BitVec.zero_and
  · exact hx

/-! ## CFG -/

theorem and_not_fifteen_of_lt {x : Word} (h : x.toNat < 16) : x &&& ~~~0xF = 0 := by
  apply BitVec.eq_of_getLsbD_eq
  intro i hi
  by_cases h4 : i < 4
  · interval_cases i <;> simp
  · have : x.toNat < 2 ^ i := h.trans_le (Nat.pow_le_pow_right (n := 2) two_pos (not_lt.mp h4))
    simp [BitVec.getLsbD, Nat.testBit_lt_two_pow this]

theorem cfgAfterWrite_reserved (c v : Word) : cfgAfterWrite c v &&& ~~~0xF = 0 := by
  have h := cfgAfterWrite_toNat c v
  exact and_not_fifteen_of_lt (by split at h <;> omega)

/-- A write of 0 leaves REPEAT, any other stores itself. -/
theorem cfgRepeat_cfgAfterWrite_ne_zero {c : Word} (h : cfgRepeat c ≠ 0) (v : Word) :
    cfgRepeat (cfgAfterWrite c v) ≠ 0 := by
  have hne : c.toNat / 2 % 4 ≠ 0 := fun e => h (BitVec.eq_of_toNat_eq (by rw [cfgRepeat_toNat, e]; rfl))
  have hw := cfgAfterWrite_toNat c v
  intro e
  have he := congrArg BitVec.toNat e
  rw [cfgRepeat_toNat, show (0 : BitVec 2).toNat = 0 from rfl] at he
  split at hw <;> omega

/-! ## The operations -/

theorem registersOk_reset : RegistersOk State.reset := by constructor <;> decide

/-- The invariant looks at the registers only: new paths and results with defined ERR and INT_RAW bits keep it. -/
theorem RegistersOk.withFlags {s : State} (hs : RegistersOk s) {r : RxState} {x : TxState} {q q' e f : Word}
    (he : e &&& ~~~0x3F = 0) (hf : f &&& ~~~0x7 = 0) :
    RegistersOk { s with rx := r, result := q, resultRaw := q', tx := x, err := e, intRaw := f } :=
  { hs with err := he, intRaw := hf }

theorem RegistersOk.raiseErr {s : State} (hs : RegistersOk s) (c : ErrCause) : RegistersOk (raiseErr c s) :=
  hs.withFlags (or_reserved hs.err (errBit_reserved c)) (or_reserved hs.intRaw (intBit_reserved .err))

theorem exec_keeps_registersOk {i : Instr} {s t : State} (hs : RegistersOk s) (h : exec i s = .next t) :
    RegistersOk t := by
  cases i with
  | rxPair p =>
    rw [exec_rxPair] at h
    cases h
    exact hs.withFlags (or_reserved hs.err (ite_reserved (errBit_reserved _) _))
      (or_reserved hs.intRaw (ite_reserved (intBit_reserved _) _))
  | rxEnd d =>
    rw [exec_rxEnd] at h
    cases h
    exact hs.withFlags (or_reserved hs.err (ite_reserved (errBit_reserved _) _))
      (or_reserved (or_reserved hs.intRaw (ite_reserved (intBit_reserved _) _)) (intBit_reserved _))
  | rxNodata d => cases h; exact hs.withFlags hs.err (or_reserved hs.intRaw (intBit_reserved _))
  | rxRsvd d => cases h; exact hs.raiseErr _
  | txDone =>
    rw [exec_txDone] at h
    cases h
    refine hs.withFlags (or_reserved hs.err ?_) (or_reserved hs.intRaw ?_)
    · split
      · exact BitVec.zero_and
      · exact errBit_reserved _
    · split
      · exact ite_reserved (intBit_reserved _) _
      · exact intBit_reserved _
  | txFail =>
    rw [exec_txFail] at h
    cases h
    refine hs.withFlags (or_reserved hs.err ?_) (or_reserved hs.intRaw (intBit_reserved _))
    split <;> exact errBit_reserved _
  | cmdNop ign => cases h; exact hs
  | cmdTxStart c b a ign =>
    cases hb : s.tx.busy with
    | true => rw [exec_txStart_busy c b a ign hb] at h; cases h; exact hs.raiseErr _
    | false => rw [exec_txStart_idle c b a ign hb] at h; cases h; exact hs.withFlags hs.err hs.intRaw
  | cmdIllegal ign op => cases h; exact hs.raiseErr _
  | wrCfg v =>
    cases h
    exact { hs with
      cfg := cfgAfterWrite_reserved s.cfg v
      repeatNonzero := cfgRepeat_cfgAfterWrite_ne_zero hs.repeatNonzero v }
  | wrVariant v => cases h; exact { hs with variant := and_mask_reserved v variantMask }
  | wrHdrWin v => cases h; exact { hs with hdrWin := and_mask_reserved v pairMask }
  | wrB0Win v => cases h; exact { hs with b0Win := and_mask_reserved v pairMask }
  | wrB1Win v => cases h; exact { hs with b1Win := and_mask_reserved v pairMask }
  | wrStopWin v => cases h; exact { hs with stopWin := and_mask_reserved v pairMask }
  | wrTxHdr v => cases h; exact { hs with txHdr := and_mask_reserved v pairMask }
  | wrTxB0 v => cases h; exact { hs with txB0 := and_mask_reserved v pairMask }
  | wrTxB1 v => cases h; exact { hs with txB1 := and_mask_reserved v pairMask }
  | wrTxStop v => cases h; exact { hs with txStop := and_mask_reserved v pairMask }
  | wrTxTrl0 v => cases h; exact { hs with }
  | wrTxTrl1 v => cases h; exact { hs with txTrl1 := and_mask_reserved v trl1Mask }
  | wrErr v => cases h; exact { hs with err := w1c_reserved hs.err v errMask }
  | wrIntRaw v => cases h; exact { hs with intRaw := w1c_reserved hs.intRaw v intMask }
  | wrIntEna v => cases h; exact { hs with intEna := and_mask_reserved v intMask }
  | wrIgnored a d => cases h; exact hs
  | busRead a d => cases h; exact { hs with }

end Sys2Proof.Machine

open Sys2Proof Sys2Proof.Machine

/-- Settles O55: it holds after reset and every operation keeps it. -/
theorem stepKeepsRegistersOk : Obligations.StepKeepsRegistersOk := fun _ _ hs h =>
  step_keeps registersOk_reset (fun _ _ hs => { hs with }) (fun _ _ _ => exec_keeps_registersOk) hs h

end

section
/-! The receive path: what every operation on an open capture keeps, and what opening and closing one establishes. -/

namespace Sys2Proof.Machine

/-- Counting up without wrapping. -/
theorem toNat_succ {w : Nat} {x : BitVec w} (h : x.toNat + 1 < 2 ^ w) : (x + 1).toNat = x.toNat + 1 := by
  have h1 : (1 : BitVec w).toNat = 1 := (BitVec.toNat_ofNat 1 w).trans (Nat.mod_eq_of_lt (by omega))
  rw [BitVec.toNat_add, h1, Nat.mod_eq_of_lt h]

/-- The clauses of ReceiveOk that do not depend on whether a capture is open. -/
structure BytesOk (r : RxState) : Prop where
  bufCanonical : Memory.wf r.buf
  zeroBeyondCount : ∀ k, r.count.toNat ≤ k → Memory.read r.buf k = 0
  shiftRightAligned : r.shift.toNat < 2 ^ r.nbits.toNat

theorem ReceiveOk.bytesOk {r : RxState} (h : ReceiveOk r) : BytesOk r := { h with }

theorem receiveOk_reset : ReceiveOk RxState.reset where
  bufCanonical := Memory.wf_nil
  zeroBeyondCount _ _ := rfl
  shiftRightAligned := by decide
  closedHasNoPartial _ := rfl
  openHasSymbol h := absurd h Bool.false_ne_true

theorem BytesOk.openRx {r : RxState} (h : BytesOk r) : BytesOk (openRx r) := by
  unfold Machine.openRx
  split
  · exact h
  · exact { receiveOk_reset with }

/-- A byte appended, with no partial byte left (41_assembler.md R131). -/
theorem BytesOk.append {r : RxState} (h : BytesOk r) (v : Byte) :
    BytesOk { appendRx v r with shift := 0, nbits := 0 } where
  bufCanonical := appendRx_wf h.bufCanonical v
  zeroBeyondCount k hk := by
    have hc : min (r.count.toNat + 1) 65535 ≤ k := by
      rw [← satIncr_toNat, ← appendRx_count v r]; exact hk
    change Memory.read (appendRx v r).buf k = 0
    rw [appendRx_read h.bufCanonical.1, if_neg (by omega)]
    by_cases hk' : r.count.toNat ≤ k
    · exact h.zeroBeyondCount k hk'
    · exact Memory.read_beyond h.bufCanonical (by unfold Config.rxBufBytes; omega)
  shiftRightAligned := Nat.zero_lt_one

theorem BytesOk.bitRx {r : RxState} (h : BytesOk r) (b : Bool) : BytesOk (bitRx b r) := by
  by_cases h7 : r.nbits.toNat = 7
  · rw [bitRx_last b h7]
    exact h.append _
  · have hlt : r.nbits.toNat < 7 := by omega
    rw [bitRx_more b hlt]
    refine { h with shiftRightAligned := ?_ }
    have hb := Bool.toNat_le b
    have hs := h.shiftRightAligned
    have hn : (r.nbits + 1).toNat = r.nbits.toNat + 1 := toNat_succ (by omega)
    simp only [hn, shifted_toNat, pow_succ]
    exact (Nat.mod_le _ _).trans_lt (by omega)

theorem BytesOk.symbolRx {r : RxState} (h : BytesOk r) (sym : Symbol) : BytesOk (symbolRx sym r) := by
  have hr : BytesOk { r with lastSym := sym } := { h with }
  cases sym with
  | bit0 => exact hr.bitRx false
  | bit1 => exact hr.bitRx true
  | noPair | header | stop | noise => exact hr

theorem BytesOk.flushRx {r : RxState} (h : BytesOk r) : BytesOk (flushRx r) := by
  unfold Machine.flushRx
  split
  · exact h
  · exact h.append _

/-- A flush leaves no partial byte (41_assembler.md R134). -/
theorem flushRx_nbits (r : RxState) : (flushRx r).nbits = 0 := by
  unfold flushRx
  split
  · assumption
  · rfl

/-- RX_PAIR leaves an open capture with a symbol. -/
theorem BytesOk.receiveOk_symbolRx {r : RxState} (h : BytesOk r) (ho : r.isOpen = true) {sym : Symbol}
    (hsym : sym ≠ .noPair) : ReceiveOk (Machine.symbolRx sym r) :=
  { h.symbolRx sym with
    closedHasNoPartial := fun hc => absurd hc (by rw [symbolRx_isOpen, ho]; decide)
    openHasSymbol := fun _ => by rwa [symbolRx_lastSym] }

/-- RX_END leaves a closed capture with no partial byte. -/
theorem BytesOk.receiveOk_endRx {r : RxState} (h : BytesOk r) : ReceiveOk (endRx r) :=
  { h.openRx.flushRx with
    closedHasNoPartial := fun _ => flushRx_nbits (Machine.openRx r)
    openHasSymbol := fun ho => absurd ho Bool.false_ne_true }

theorem exec_keeps_receiveOk {i : Instr} {s t : State} (hs : ReceiveOk s.rx) (h : exec i s = .next t) :
    ReceiveOk t.rx := by
  cases i with
  | rxPair p =>
    rw [exec_rxPair] at h
    cases h
    exact hs.bytesOk.openRx.receiveOk_symbolRx (openRx_isOpen s.rx) (classify_ne_noPair s p)
  | rxEnd d => rw [exec_rxEnd] at h; cases h; exact hs.bytesOk.receiveOk_endRx
  | rxNodata d => cases h; exact receiveOk_reset
  | rxRsvd d => cases h; exact hs
  | _ => rwa [(exec_receive_unchanged rfl h).1]

end Sys2Proof.Machine

open Sys2Proof Sys2Proof.Machine

/-- Settles O56: it holds after reset and every operation keeps it. -/
theorem stepKeepsReceiveOk : Obligations.StepKeepsReceiveOk := fun _ _ hs h =>
  step_keeps (P := fun s => ReceiveOk s.rx) receiveOk_reset (fun _ _ hs => hs) (fun _ _ _ => exec_keeps_receiveOk) hs h

end

section
/-! The transmit path: TX_START establishes its invariant, and the two responses keep it. -/

namespace Sys2Proof.Machine

theorem transmitOk_reset : TransmitOk TxState.reset := by constructor <;> decide

/-- TX_START presents slot 0 of frame 0; a nonzero REPEAT gives the sequence that frame (43_builder.md R190). -/
theorem RegistersOk.transmitOk_startTx {s : State} (hs : RegistersOk s) (a b c : Byte) :
    TransmitOk (startTx a b c s).tx where
  validIsBusy := rfl
  wordPresented _ := pairWord_congr rfl rfl 0 0
  wordIdle h := absurd h.symm Bool.false_ne_true
  slotInFrame := Nat.zero_le 49
  frameInSequence _ := by
    have hne : (cfgRepeat s.cfg).toNat ≠ 0 := fun e => hs.repeatNonzero (BitVec.eq_of_toNat_eq e)
    exact Nat.lt_of_lt_of_le (Nat.pos_of_ne_zero hne) (Nat.le_add_right _ _)
  repeatsWhileBusy _ := hs.repeatNonzero
  pairsCountSlots _ := rfl
  pairsBounded := Nat.zero_le 200

/-- Nothing presented, with a slot of a frame and a count in range (43_builder.md R194, R195). -/
theorem transmitOk_idleTx {t : TxState} (hslot : t.slot.toNat ≤ 49) (hpairs : t.pairs.toNat ≤ 200) :
    TransmitOk (idleTx t) where
  validIsBusy := rfl
  wordPresented h := absurd h Bool.false_ne_true
  wordIdle _ := rfl
  slotInFrame := hslot
  frameInSequence h := absurd h Bool.false_ne_true
  repeatsWhileBusy h := absurd h Bool.false_ne_true
  pairsCountSlots h := absurd h Bool.false_ne_true
  pairsBounded := hpairs

/-- A position of the sequence presented while busy, with the slots behind it counted. -/
theorem transmitOk_presentAt {t : TxState} {f : BitVec 2} {n : BitVec 6} (hb : t.busy = true) (hn : n.toNat ≤ 49)
    (hf : f.toNat < nframes t.snap) (hreps : t.snap.reps ≠ 0) (hpairs : t.pairs.toNat = 50 * f.toNat + n.toNat) :
    TransmitOk (presentAt f n t) where
  validIsBusy := hb.symm
  wordPresented _ := pairWord_congr rfl rfl _ _
  wordIdle h := absurd (hb.symm.trans h).symm Bool.false_ne_true
  slotInFrame := hn
  frameInSequence _ := hf
  repeatsWhileBusy _ := hreps
  pairsCountSlots _ := hpairs
  pairsBounded := by
    have := nframes_le t.snap
    rw [presentAt_pairs]
    omega

theorem TransmitOk.doneTx {t : TxState} (h : TransmitOk t) : TransmitOk (doneTx t) := by
  unfold Machine.doneTx
  split
  case isFalse => exact h
  case isTrue hb =>
    have hf := h.frameInSequence hb
    have hc := h.pairsCountSlots hb
    have hslot := h.slotInFrame
    have hle := nframes_le t.snap
    have hpairs : (t.pairs + 1).toNat = t.pairs.toNat + 1 := toNat_succ (by omega)
    by_cases hs : t.slot.toNat < 49
    · have hn : (t.slot + 1).toNat = t.slot.toNat + 1 := toNat_succ (by omega)
      rw [nextPos_more hs]
      exact transmitOk_presentAt hb (by omega) hf (h.repeatsWhileBusy hb) (by rw [hpairs, hn]; omega)
    · by_cases hlast : t.frame.toNat + 1 < nframes t.snap
      · have hn : (t.frame + 1).toNat = t.frame.toNat + 1 := toNat_succ (by omega)
        rw [nextPos_frame (by omega) hlast]
        exact transmitOk_presentAt hb (Nat.zero_le 49) (by rwa [hn]) (h.repeatsWhileBusy hb)
          (by rw [hpairs, hn, show (0 : BitVec 6).toNat = 0 from rfl]; omega)
      · rw [nextPos_end (by omega) (by omega)]
        exact transmitOk_idleTx (Nat.zero_le 49) (by rw [hpairs]; omega)

theorem TransmitOk.failedTx {t : TxState} (h : TransmitOk t) : TransmitOk (failedTx t) := by
  unfold Machine.failedTx
  split
  · exact transmitOk_idleTx h.slotInFrame h.pairsBounded
  · exact h

theorem exec_keeps_transmitOk {i : Instr} {s t : State} (hr : RegistersOk s) (hs : TransmitOk s.tx)
    (h : exec i s = .next t) : TransmitOk t.tx := by
  cases i with
  | txDone => rw [exec_txDone] at h; cases h; exact hs.doneTx
  | txFail => rw [exec_txFail] at h; cases h; exact hs.failedTx
  | cmdTxStart c b a ign =>
    cases hb : s.tx.busy with
    | true => rw [exec_txStart_busy c b a ign hb] at h; cases h; exact hs
    | false => rw [exec_txStart_idle c b a ign hb] at h; cases h; exact hr.transmitOk_startTx a b c
  | _ => rwa [exec_tx_unchanged rfl h]

end Sys2Proof.Machine

open Sys2Proof Sys2Proof.Machine

/-- Settles O57: with the registers' invariant it holds after reset and every operation keeps it. -/
theorem stepKeepsTransmitOk : Obligations.StepKeepsTransmitOk := fun _ _ hr hs h =>
  (step_keeps (P := fun s => RegistersOk s ∧ TransmitOk s.tx) ⟨registersOk_reset, transmitOk_reset⟩
    (fun _ _ ⟨hr, hs⟩ => ⟨{ hr with }, hs⟩)
    (fun _ _ _ ⟨hr, hs⟩ he => ⟨exec_keeps_registersOk hr he, exec_keeps_transmitOk hr hs he⟩) ⟨hr, hs⟩ h).2

/-- Settles O37: a response's effect on the transmit path is a function of the transmit path. -/
theorem runningSequenceReadsOnlySnapshot : Obligations.RunningSequenceReadsOnlySnapshot := by
  rintro i s s' (rfl | rfl) htx
  · exact ⟨_, _, exec_txDone s, exec_txDone s', congrArg doneTx htx⟩
  · exact ⟨_, _, exec_txFail s, exec_txFail s', congrArg failedTx htx⟩

end

section
/-! The results: every command the interpreter answers has a legal encoding in RESULT and RESULT_RAW. -/

namespace Sys2Proof.Machine

/-! ## The commands the interpreter answers -/

/-- The SETTINGS fields that fit together (42_interpreter.md R161, R163): a defaulted fan is AUTO; a valid temperature is
16 to 31, an invalid one 0; the sentinel is the valid temperature 31. -/
structure Settings.Legal (x : Settings) : Prop where
  defaultedIsAuto : x.fanDefaulted = true → x.fan = .auto
  tempRange : x.tempValid = true → 16 ≤ x.tempC.toNat ∧ x.tempC.toNat ≤ 31
  tempInvalidIsZero : x.tempValid = false → x.tempC = 0
  sentinelIs31 : x.tempSentinel = true → x.tempValid = true ∧ x.tempC = 31

/-- The commands the interpreter answers. -/
def Command.Legal : Command → Prop
  | .settings x => x.Legal
  | .noFrame | .powerOff | .swingAuto | .swingManual | .swingLeftRight | .unrecognized _ => True

theorem fanMap_defaulted (v : Word) (code : BitVec 3) (h : (fanMap v code).2 = true) : (fanMap v code).1 = .auto := by
  revert h
  unfold fanMap
  generalize varFan0Fixed v = fixed
  revert code fixed
  decide

/-- What TempMap answers, whatever the code (42_interpreter.md R163). -/
theorem tempMap_legal (v : Word) (code : BitVec 4) :
    ((tempMap v code).1 = true → 16 ≤ (tempMap v code).2.2.toNat ∧ (tempMap v code).2.2.toNat ≤ 31) ∧
      ((tempMap v code).1 = false → (tempMap v code).2.2 = 0) ∧
      ((tempMap v code).2.1 = true → (tempMap v code).1 = true ∧ (tempMap v code).2.2 = 31) := by
  unfold tempMap
  generalize varTempExt v = extended
  revert code extended
  decide

theorem settingsOf_legal (v : Word) (b2 b4 : Byte) : (settingsOf v b2 b4).Legal := by
  obtain ⟨hrange, hzero, hsentinel⟩ := tempMap_legal v (b4.extractLsb' 4 4)
  exact ⟨fanMap_defaulted v _, hrange, hzero, hsentinel⟩

theorem interpret_legal (s : State) : (interpret s).Legal := by
  unfold interpret
  dsimp only
  repeat' split
  case isFalse => exact settingsOf_legal ..
  all_goals trivial

/-! ## Their encodings -/

/-- ResultOk as a claim about the two words alone. -/
def ResultWordsOk (w raw : Word) : Prop := ResultOk { State.reset with result := w, resultRaw := raw }

theorem resultOk_iff (s : State) : ResultOk s ↔ ResultWordsOk s.result s.resultRaw :=
  ⟨fun h => { h with }, fun h => { h with }⟩

theorem fanFieldCode_le (f : Fan) : (fanFieldCode f).toNat ≤ 4 := by cases f <;> decide

/-- RESULT_RAW's reserved bits are 0 (10_state.md R41). -/
theorem resultRawWord_reserved (c : Command) : resultRawWord c &&& 0xFFFFF0C8 = 0 := by
  cases c with
  | settings x =>
    unfold resultRawWord
    apply BitVec.eq_of_getLsbD_eq
    intro i hi
    simp only [BitVec.getLsbD_and, BitVec.getLsbD_append]
    interval_cases i <;> simp
  | _ => exact BitVec.zero_and

theorem resultWordsOk_settings {x : Settings} (hx : x.Legal) :
    ResultWordsOk (settingsWord x) (resultRawWord (.settings x)) := by
  obtain ⟨hkind, hreason, hfan, -, htemp, hdefaulted, hvalid, hsentinel⟩ := settingsWord_fields x
  have hreserved : settingsWord x &&& (0xFF00E018 &&& 0xFF00E000) = 0 := by
    rw [← BitVec.and_assoc, settingsWord_reserved]; rfl
  constructor <;> dsimp only
  case noneIsZero => rw [hkind]; exact fun h => absurd h (by decide)
  case reserved => exact hreserved
  case unrecReason => rw [hreason]; decide
  case unrecOnlyUnrecognized => exact fun _ => hreason
  case settingsOnly => exact fun h => absurd hkind h
  case fanLegal => rw [hfan]; exact fanFieldCode_le x.fan
  case defaultedIsAuto => rw [hdefaulted, hfan]; exact fun h => by rw [hx.defaultedIsAuto h]; rfl
  case tempRange => rw [hvalid, htemp]; exact hx.tempRange
  case tempInvalidIsZero => rw [hvalid, htemp]; exact hx.tempInvalidIsZero
  case sentinelIs31 => rw [hsentinel, hvalid, htemp]; exact hx.sentinelIs31
  case rawReserved => exact resultRawWord_reserved _

theorem resultWordsOk_command {c : Command} (hc : c.Legal) : ResultWordsOk (resultWord c) (resultRawWord c) := by
  cases c with
  | settings x => exact resultWordsOk_settings hc
  | unrecognized r => cases r <;> constructor <;> decide
  | _ => constructor <;> decide

theorem resultOk_reset : ResultOk State.reset := by constructor <;> decide

theorem exec_keeps_resultOk {i : Instr} {s t : State} (hs : ResultOk s) (h : exec i s = .next t) : ResultOk t := by
  rw [resultOk_iff] at hs ⊢
  cases i with
  | rxPair p => rw [exec_rxPair] at h; cases h; exact hs
  | rxEnd d => rw [exec_rxEnd] at h; cases h; exact resultWordsOk_command (interpret_legal _)
  | rxNodata d => cases h; exact resultWordsOk_command (c := .noFrame) trivial
  | rxRsvd d => cases h; exact hs
  | _ =>
    obtain ⟨_, hres, hraw⟩ := exec_receive_unchanged rfl h
    rwa [hres, hraw]

end Sys2Proof.Machine

open Sys2Proof Sys2Proof.Machine

/-- Settles O58: it holds after reset, and the only writers of the results write the encoding of a command. -/
theorem stepKeepsResultOk : Obligations.StepKeepsResultOk := fun _ _ hs h =>
  step_keeps resultOk_reset (fun _ _ hs => { hs with }) (fun _ _ _ => exec_keeps_resultOk) hs h

end

section
/-! The interrupt output (10_state.md R51). -/

namespace Sys2Proof.Machine

theorem irq_iff (s : State) :
    irq s = true ↔ ∃ k, k < 3 ∧ s.intRaw.getLsbD k = true ∧ s.intEna.getLsbD k = true := by
  simp only [irq, Bool.or_eq_true, Bool.and_eq_true]
  constructor
  · rintro ((h | h) | h)
    · exact ⟨0, by decide, h⟩
    · exact ⟨1, by decide, h⟩
    · exact ⟨2, by decide, h⟩
  · rintro ⟨k, hk, h⟩
    interval_cases k
    · exact .inl (.inl h)
    · exact .inl (.inr h)
    · exact .inr h

/-- INT_ENA has the three bits of INT_RAW, and a write stores them as they are. -/
theorem getLsbD_and_intMask (v : Word) {k : Nat} (hk : k < 3) : (v &&& intMask).getLsbD k = v.getLsbD k := by
  rw [BitVec.getLsbD_and]
  interval_cases k <;> exact Bool.and_true _

end Sys2Proof.Machine

open Sys2Proof Sys2Proof.Machine

/-- Settles O49: irq is the OR over the three bits, and each of them is written to INT_ENA as it stands. -/
theorem irqFollowsEnables : Obligations.IrqFollowsEnables := by
  refine ⟨irq_iff, fun v s => ⟨_, rfl, rfl, (irq_iff _).trans (exists_congr fun k => and_congr_right fun hk => ?_)⟩⟩
  exact and_congr_right fun _ => by rw [← getLsbD_and_intMask v hk]

end

section
/-! The host's view of the block (20_memory.md): which byte addresses reach a register word (R62), that doing an access
twice is doing it once (R67), and that a step runs the pending event whole (R66, R69). -/

namespace Sys2Proof

/-- A word address has 6 bits, so IRC_BASE + 4a lies in the 256-byte window, whatever IRC_BASE is. -/
theorem hostWaddr_eq_some_iff (addr : Nat) (a : WAddr) : hostWaddr addr = some a ↔ addr = hostByteAddress a := by
  have ha := a.isLt
  unfold hostWaddr hostByteAddress Config.regWords
  split
  · next hin =>
    have hword : (addr - Config.ircBase) / 4 < 2 ^ 6 := by omega
    rw [Option.some_inj, ← BitVec.toNat_inj, BitVec.toNat_ofNat, Nat.mod_eq_of_lt hword]
    omega
  · next hout => exact iff_of_false nofun fun h => hout (by omega)

namespace Machine

/-- A bit that is cleared stays cleared. -/
theorem w1c_w1c (x v mask : Word) : w1c (w1c x v mask) v mask = w1c x v mask := by
  unfold w1c
  rw [BitVec.and_assoc, BitVec.and_self]

/-- REPEAT is kept by the second write if it was kept by the first, and is the value written otherwise. -/
theorem cfgAfterWrite_cfgAfterWrite (c v : Word) : cfgAfterWrite (cfgAfterWrite c v) v = cfgAfterWrite c v := by
  apply BitVec.eq_of_toNat_eq
  have hc := cfgAfterWrite_toNat c v
  rw [cfgAfterWrite_toNat]
  split at hc <;> split <;> omega

/-- An operation that answers a state it then leaves as it is can be done twice as well as once. -/
theorem execAll_twice {i : Instr} {s t : State} (h : exec i s = .next t) (ht : exec i t = .next t) :
    ∃ t, execAll [i] s = .next t ∧ execAll [i, i] s = .next t := by
  refine ⟨t, ?_, ?_⟩
  · rw [execAll_cons h, execAll_nil]
  · rw [execAll_cons h, execAll_cons ht, execAll_nil]

/-- A register access leaves the state it answers: W1C and CFG writes by their own laws, every other write because it does
not look at the old value, a read because it does not look at rdata. -/
theorem exec_registerAccess_again {i : Instr} (hi : isRegisterAccess i = true) {s t : State} (h : exec i s = .next t) :
    exec i t = .next t := by
  cases i with
  | wrCfg v =>
    cases h
    simp only [exec, execWrCfg, cfgAfterWrite_cfgAfterWrite]
  | wrErr v =>
    cases h
    simp only [exec, execWrErr, w1c_w1c]
  | wrIntRaw v =>
    cases h
    simp only [exec, execWrIntRaw, w1c_w1c]
  | rxPair | rxEnd | rxNodata | rxRsvd | txDone | txFail | cmdNop | cmdTxStart | cmdIllegal => cases hi
  | _ => cases h; rfl

/-! ## The step, by what is pending (R66, R69) -/

theorem step_empty {s : State} (h : s.inputs = []) : step s = .next s := by
  unfold step; rw [h]

theorem step_noEvent {s : State} {c : Cycle} {rest : List Cycle} (h : s.inputs = c :: rest) (hr : c.rstN = true)
    (he : takeEvent c = none) : step s = .next { s with inputs := rest } := by
  unfold step; simp only [h, hr, he, if_true]

theorem step_event {s : State} {c c' : Cycle} {rest : List Cycle} {w : PortWord} (h : s.inputs = c :: rest)
    (hr : c.rstN = true) (he : takeEvent c = some (w, c')) :
    step s = exec (decode w) { s with inputs := afterEvent c' rest } := by
  unfold step; simp only [h, hr, he, if_true]

theorem cycleOf_rstN (w : PortWord) : (cycleOf w).rstN = true := by cases w <;> rfl

/-- The edge made for a word gives that word up and is over. -/
theorem takeEvent_cycleOf (w : PortWord) : takeEvent (cycleOf w) = some (w, ⟨true, none, none, none⟩) := by
  cases w <;> rfl

theorem afterEvent_last (rest : List Cycle) : afterEvent ⟨true, none, none, none⟩ rest = rest := rfl

theorem withFetchWord_eq {nbits w : Nat} {pw : PortWord} (h : tableWord nbits w = some pw) (s : State) :
    s.withFetchWord nbits w = { s with inputs := cycleOf pw :: s.inputs } := by
  unfold State.withFetchWord; rw [h]

theorem step_withFetchWord {nbits w : Nat} {pw : PortWord} (h : tableWord nbits w = some pw) (s : State) :
    step (s.withFetchWord nbits w) = exec (decode pw) s := by
  rw [withFetchWord_eq h, step_event rfl (cycleOf_rstN pw) (takeEvent_cycleOf pw), afterEvent_last]

end Machine

end Sys2Proof

open Sys2Proof Sys2Proof.Machine

/-- Settles O44: an access completes, and the state it answers is one the same access leaves as it is. -/
theorem accessesAreIdempotent : Obligations.AccessesAreIdempotent := by
  intro i s hi
  obtain ⟨t, ht, _⟩ := exec_inputs i s
  exact execAll_twice ht (exec_registerAccess_again hi ht)

/-- Settles O6: hostWaddr is the inverse of hostByteAddress. -/
theorem hostByteAddresses : Obligations.HostByteAddresses := hostWaddr_eq_some_iff

/-- Settles O7: each clause is the step's equation for that form of the pending input. -/
theorem stepRunsDecodedInstruction : Obligations.StepRunsDecodedInstruction :=
  ⟨fun _ _ _ _ _ h hr he => step_event h hr he, fun _ _ h => step_noEvent h rfl rfl, fun _ h => step_empty h,
    fun s _ _ _ h => step_withFetchWord h s⟩

end

section
/-! Encoding: `decode` and `encode` are inverse to each other (30_encoding.md R81 to R96). -/

namespace Sys2Proof

/-! ## Commands and host writes -/

theorem ignOpWord_fields (ign : BitVec 28) (op : BitVec 4) :
    (ign ++ op : Word).extractLsb' 4 28 = ign ∧ (ign ++ op : Word).extractLsb' 0 4 = op := by
  have h := ignOpWord_toNat ign op
  have hign := ign.isLt
  have hop := op.isLt
  constructor <;> apply BitVec.eq_of_toNat_eq <;> rw [extract_toNat, h] <;> omega

/-- The fields of a TX_START command word (30_encoding.md R89). -/
theorem startWord_fields {v : Word} {c b a : Byte} {ign op : BitVec 4} (h : v = c ++ b ++ a ++ ign ++ op) :
    v.extractLsb' 24 8 = c ∧ v.extractLsb' 16 8 = b ∧ v.extractLsb' 8 8 = a ∧ v.extractLsb' 4 4 = ign ∧
      v.extractLsb' 0 4 = op := by
  have hv := (congrArg BitVec.toNat h).trans (startWord_toNat c b a ign op)
  have hc := c.isLt
  have hb := b.isLt
  have ha := a.isLt
  have hign := ign.isLt
  have hop := op.isLt
  refine ⟨?_, ?_, ?_, ?_, ?_⟩ <;> apply BitVec.eq_of_toNat_eq <;> rw [extract_toNat, hv] <;> omega

/-- A command decodes by its OP (44_host_bus.md R227). -/
theorem decodeCmd_nop (ign : BitVec 28) : decodeCmd (ign ++ (0 : BitVec 4)) = .cmdNop ign := by
  obtain ⟨hign, hop⟩ := ignOpWord_fields ign 0
  unfold decodeCmd
  rw [hign, hop]
  rfl

theorem decodeCmd_start (c b a : Byte) (ign : BitVec 4) :
    decodeCmd (c ++ b ++ a ++ ign ++ (1 : BitVec 4)) = .cmdTxStart c b a ign := by
  obtain ⟨hc, hb, ha, hign, hop⟩ := startWord_fields (v := c ++ b ++ a ++ ign ++ 1) rfl
  unfold decodeCmd
  rw [hc, hb, ha, hign, hop]
  rfl

theorem decodeCmd_illegal (ign : BitVec 28) {op : BitVec 4} (h : 2 ≤ op.toNat) :
    decodeCmd (ign ++ op) = .cmdIllegal ign op := by
  obtain ⟨hign, hop⟩ := ignOpWord_fields ign op
  unfold decodeCmd
  rw [hign, hop]
  split
  case h_3 => rfl
  all_goals omega

theorem ignoredWaddr_iff (a : WAddr) : ignoredWaddr a = true ↔ a.toNat = 13 ∨ 17 ≤ a.toNat := by
  simp [ignoredWaddr, ← BitVec.toNat_inj]

/-- A write to a read-only or reserved word decodes to WR_IGNORED (44_host_bus.md R211). -/
theorem decodeWrite_ignored {a : WAddr} (h : ignoredWaddr a = true) (v : Word) :
    decodeWrite a v = .wrIgnored a v := by
  rw [ignoredWaddr_iff] at h
  unfold decodeWrite
  split
  case h_17 => rfl
  all_goals omega

/-! ## The round trips -/

theorem decode_encode {i : Instr} (h : i.wellFormed = true) : decode (encode i) = i := by
  cases i with
  | rxPair p => exact (decode_rxWord 0 _).trans (congrArg Instr.rxPair (pairOfWord_wordOfPair p))
  | rxEnd d => exact decode_rxWord 1 d
  | rxNodata d => exact decode_rxWord 2 d
  | rxRsvd d => exact decode_rxWord 3 d
  | txDone => rfl
  | txFail => rfl
  | cmdNop ign => exact (decode_writeWord cmdWaddr _).trans (decodeCmd_nop ign)
  | cmdTxStart c b a ign => exact (decode_writeWord cmdWaddr _).trans (decodeCmd_start c b a ign)
  | cmdIllegal ign op => exact (decode_writeWord cmdWaddr _).trans (decodeCmd_illegal ign (of_decide_eq_true h))
  | wrIgnored a v => exact (decode_writeWord a v).trans (decodeWrite_ignored h v)
  | busRead a v => exact decode_readWord a v
  | _ => exact decode_writeWord _ _

/-- To decode a word is to find the instruction it is the encoding of. -/
theorem decode_of_encode {i : Instr} {w : PortWord} (hi : i.wellFormed = true) (h : encode i = w) : decode w = i := by
  rw [← h, decode_encode hi]

/-! ## Every word is the encoding of a well-formed instruction -/

/-- The words a write stores to, CMD left out (10_state.md R22). -/
def writableAddrs : List WAddr := [0, 1, 2, 3, 4, 5, 6, 7, 8, 9, 10, 11, 14, 15, 16]

/-- Every address is ignored, CMD, or a register's (30_encoding.md R92). -/
theorem writeAddr_cases (a : WAddr) : ignoredWaddr a = true ∨ a = cmdWaddr ∨ a ∈ writableAddrs := by
  revert a; decide

theorem ignOpWord_extract (v : Word) : v.extractLsb' 4 28 ++ v.extractLsb' 0 4 = v := by
  apply BitVec.eq_of_toNat_eq
  rw [ignOpWord_toNat, extract_toNat, extract_toNat]
  have := v.isLt
  omega

theorem startWord_extract (v : Word) :
    v.extractLsb' 24 8 ++ v.extractLsb' 16 8 ++ v.extractLsb' 8 8 ++ v.extractLsb' 4 4 ++ v.extractLsb' 0 4 = v := by
  apply BitVec.eq_of_toNat_eq
  rw [startWord_toNat]
  simp only [extract_toNat]
  have := v.isLt
  omega

theorem rxWord_extract (w : BitVec 34) : rxWord (w.extractLsb' 32 2) (w.extractLsb' 0 32) = .rx w := by
  refine congrArg PortWord.rx (BitVec.eq_of_toNat_eq ((append_toNat _ _).trans ?_))
  rw [extract_toNat, extract_toNat]
  have := w.isLt
  omega

theorem busWord_extract (w : BitVec 39) : w.extractLsb' 38 1 ++ w.extractLsb' 32 6 ++ w.extractLsb' 0 32 = w := by
  refine BitVec.eq_of_toNat_eq ((busWord_toNat _ _ _).trans ?_)
  simp only [extract_toNat]
  have := w.isLt
  omega

theorem exists_encode_cmdWord (v : Word) : ∃ i : Instr, i.wellFormed = true ∧ encode i = writeWord cmdWaddr v := by
  have hop : v.extractLsb' 0 4 = 0 ∨ v.extractLsb' 0 4 = 1 ∨ 2 ≤ (v.extractLsb' 0 4).toNat := by
    generalize v.extractLsb' 0 4 = op
    revert op; decide
  have hstart := startWord_extract v
  have hignOp := ignOpWord_extract v
  rcases hop with h | h | h
  · rw [h] at hignOp
    exact ⟨.cmdNop (v.extractLsb' 4 28), rfl, congrArg (writeWord cmdWaddr) hignOp⟩
  · rw [h] at hstart
    exact ⟨.cmdTxStart (v.extractLsb' 24 8) (v.extractLsb' 16 8) (v.extractLsb' 8 8) (v.extractLsb' 4 4), rfl,
      congrArg (writeWord cmdWaddr) hstart⟩
  · exact ⟨.cmdIllegal (v.extractLsb' 4 28) (v.extractLsb' 0 4), decide_eq_true h, congrArg (writeWord cmdWaddr) hignOp⟩

theorem exists_encode_writeWord (a : WAddr) (v : Word) :
    ∃ i : Instr, i.wellFormed = true ∧ encode i = writeWord a v := by
  rcases writeAddr_cases a with h | rfl | h
  · exact ⟨.wrIgnored a v, h, rfl⟩
  · exact exists_encode_cmdWord v
  · refine ⟨decodeWrite a v, ?_⟩
    fin_cases h <;> exact ⟨rfl, rfl⟩

theorem exists_encode_rxWord (op : BitVec 2) (v : Word) :
    ∃ i : Instr, i.wellFormed = true ∧ encode i = rxWord op v := by
  have hop : op = 0 ∨ op = 1 ∨ op = 2 ∨ op = 3 := by revert op; decide
  rcases hop with rfl | rfl | rfl | rfl
  · exact ⟨.rxPair (pairOfWord v), rfl, congrArg (rxWord 0) (wordOfPair_pairOfWord v)⟩
  · exact ⟨.rxEnd v, rfl, rfl⟩
  · exact ⟨.rxNodata v, rfl, rfl⟩
  · exact ⟨.rxRsvd v, rfl, rfl⟩

theorem exists_encode (w : PortWord) : ∃ i : Instr, i.wellFormed = true ∧ encode i = w := by
  cases w with
  | rx w =>
    rw [← rxWord_extract w]
    exact exists_encode_rxWord _ _
  | resp w =>
    rcases BitVec.eq_zero_or_eq_one w with rfl | rfl
    · exact ⟨.txDone, rfl, rfl⟩
    · exact ⟨.txFail, rfl, rfl⟩
  | bus w =>
    rw [← busWord_extract w]
    rcases BitVec.eq_zero_or_eq_one (w.extractLsb' 38 1) with h | h
    · exact ⟨.busRead (w.extractLsb' 32 6) (w.extractLsb' 0 32), rfl, by rw [h]; rfl⟩
    · rw [h]
      exact exists_encode_writeWord _ _

end Sys2Proof

open Sys2Proof Sys2Proof.Machine

/-- Settles O1: by the instruction's form, its word's fields are its operands. -/
theorem decodeEncodeRoundTrip : Obligations.DecodeEncodeRoundTrip := fun _ h => decode_encode h

/-- Settles O2: every word is the encoding of a well-formed instruction, and decoding gives that instruction back. -/
theorem encodeDecodeRoundTrip : Obligations.EncodeDecodeRoundTrip := by
  intro w
  obtain ⟨i, hi, rfl⟩ := exists_encode w
  rw [decode_encode hi]
  exact ⟨hi, rfl⟩

/-- Settles O4: each word is the encoding of the instruction it stands for. -/
theorem sampleWordsDecode : Obligations.SampleWordsDecode := by
  unfold Obligations.SampleWordsDecode
  and_intros <;> exact decode_of_encode rfl rfl

end

section
/-! The opcode table: the first row that matches the word of an instruction bears its mnemonic (30_encoding.md R93). -/

namespace Sys2Proof

namespace Laws.RowMatch

/-- Every constructor has its row. -/
theorem statement : ∀ i : Instr, Statement i
  | .rxPair p => rxPair p
  | .rxEnd d => rxEnd d
  | .rxNodata d => rxNodata d
  | .rxRsvd d => rxRsvd d
  | .txDone => txDone
  | .txFail => txFail
  | .cmdNop ign => cmdNop ign
  | .cmdTxStart c b a ign => cmdTxStart c b a ign
  | .cmdIllegal ign op => cmdIllegal ign op
  | .wrCfg v => wrCfg v
  | .wrVariant v => wrVariant v
  | .wrHdrWin v => wrHdrWin v
  | .wrB0Win v => wrB0Win v
  | .wrB1Win v => wrB1Win v
  | .wrStopWin v => wrStopWin v
  | .wrTxHdr v => wrTxHdr v
  | .wrTxB0 v => wrTxB0 v
  | .wrTxB1 v => wrTxB1 v
  | .wrTxStop v => wrTxStop v
  | .wrTxTrl0 v => wrTxTrl0 v
  | .wrTxTrl1 v => wrTxTrl1 v
  | .wrErr v => wrErr v
  | .wrIntRaw v => wrIntRaw v
  | .wrIntEna v => wrIntEna v
  | .wrIgnored a v => wrIgnored a v
  | .busRead a v => busRead a v

end Laws.RowMatch

theorem rowMatches_iff (w : PortWord) (r : OpcodeRow) :
    rowMatches w r = true ↔ r.port = w.port ∧ w.bits &&& r.mask = r.pattern := by
  simp [rowMatches]

/-! ## Rows that some word matches both -/

/-- Two rows whose patterns agree where both masks look: on one interface, some word may match both. -/
abbrev Compatible (q r : OpcodeRow) : Prop := q.port = r.port ∧ q.pattern &&& r.mask = r.pattern &&& q.mask

theorem compatible_of_matches {w : PortWord} {q r : OpcodeRow} (hq : rowMatches w q = true)
    (hr : rowMatches w r = true) : Compatible q r := by
  obtain ⟨hqp, hq⟩ := (rowMatches_iff w q).mp hq
  obtain ⟨hrp, hr⟩ := (rowMatches_iff w r).mp hr
  refine ⟨hqp.trans hrp.symm, ?_⟩
  rw [← hq, ← hr, BitVec.and_assoc, BitVec.and_assoc, BitVec.and_comm q.mask]

/-- A field that a row's mask keeps whole is the pattern's in every word the row matches. -/
theorem field_of_matches {w : PortWord} {q : OpcodeRow} (h : rowMatches w q = true) {lo n : Nat}
    (hm : q.mask.extractLsb' lo n = BitVec.allOnes n) : w.bits.extractLsb' lo n = q.pattern.extractLsb' lo n := by
  obtain ⟨-, h⟩ := (rowMatches_iff w q).mp h
  rw [← h, BitVec.extractLsb'_and, hm, BitVec.and_allOnes]

/-- Row `q` takes words from the CMD_ILLEGAL row `r`: those with OP 0 or 1. -/
abbrev TakesFromIllegal (q r : OpcodeRow) : Prop :=
  r.mnemonic = "CMD_ILLEGAL" ∧ q.mask.extractLsb' 0 4 = BitVec.allOnes 4 ∧ (q.pattern.extractLsb' 0 4).toNat < 2

/-- Row `q` takes words from the WR_IGNORED row `r`: those of one address that is not ignored. -/
abbrev TakesFromIgnored (q r : OpcodeRow) : Prop :=
  r.mnemonic = "WR_IGNORED" ∧ q.mask.extractLsb' 32 6 = BitVec.allOnes 6 ∧
    ignoredWaddr (q.pattern.extractLsb' 32 6) = false

/-- The rows overlap nowhere but where the order of the table is meant to decide (R93; assumption log 7). -/
theorem opcodeTable_overlaps : opcodeTable.Pairwise fun q r =>
    Compatible q r → TakesFromIllegal q r ∨ TakesFromIgnored q r := by
  decide

/-- The first match in a list is a given match, or stands before it. -/
theorem find?_first {α : Type} {p : α → Bool} {R : α → α → Prop} {l : List α} (hl : l.Pairwise R) {r : α} (hr : r ∈ l)
    (hp : p r = true) : ∃ q, l.find? p = some q ∧ p q = true ∧ (q = r ∨ R q r) := by
  induction l with
  | nil => cases hr
  | cons x xs ih =>
    obtain ⟨hx, hxs⟩ := List.pairwise_cons.mp hl
    cases hpx : p x with
    | true =>
      refine ⟨x, List.find?_cons_of_pos hpx, hpx, ?_⟩
      exact (List.mem_cons.mp hr).imp Eq.symm (hx r)
    | false =>
      have hne : r ≠ x := fun e => by rw [e, hpx] at hp; cases hp
      rw [List.find?_cons_of_neg (by simp [hpx])]
      exact ih hxs ((List.mem_cons.mp hr).resolve_left hne)

/-! ## The rows whose words other rows take -/

theorem cmdWord_op (ign : BitVec 28) (op : BitVec 4) : (writeWord cmdWaddr (ign ++ op)).bits.extractLsb' 0 4 = op := by
  apply BitVec.eq_of_toNat_eq
  have h : (writeWord cmdWaddr (ign ++ op)).bits.toNat = _ := busWord_toNat 1 cmdWaddr (ign ++ op)
  rw [extract_toNat, h, ignOpWord_toNat]
  have := op.isLt
  omega

theorem writeWord_waddr (a : WAddr) (v : Word) : (writeWord a v).bits.extractLsb' 32 6 = a := (busWord_fields 1 a v).1

theorem not_takesFromIllegal {i : Instr} (hi : i.wellFormed = true) {q r : OpcodeRow} (hr : r.mnemonic = i.mnemonic)
    (hq : rowMatches (encode i) q = true) : ¬TakesFromIllegal q r := by
  rintro ⟨hm, hmask, hop⟩
  have hm := hr.symm.trans hm
  cases i with
  | cmdIllegal ign op =>
    have h2 : 2 ≤ op.toNat := of_decide_eq_true hi
    have hfield : op = _ := (cmdWord_op ign op).symm.trans (field_of_matches hq hmask)
    rw [← hfield] at hop
    omega
  | _ => simp [Instr.mnemonic] at hm

theorem not_takesFromIgnored {i : Instr} (hi : i.wellFormed = true) {q r : OpcodeRow} (hr : r.mnemonic = i.mnemonic)
    (hq : rowMatches (encode i) q = true) : ¬TakesFromIgnored q r := by
  rintro ⟨hm, hmask, ha⟩
  have hm := hr.symm.trans hm
  cases i with
  | wrIgnored a v =>
    have hfield : a = _ := (writeWord_waddr a v).symm.trans (field_of_matches hq hmask)
    rw [← hfield] at ha
    exact absurd (hi.symm.trans ha) (by decide)
  | _ => simp [Instr.mnemonic] at hm

theorem firstRow_encode {i : Instr} (hi : i.wellFormed = true) :
    (firstRow (encode i)).map (fun r => r.mnemonic) = some i.mnemonic := by
  obtain ⟨r, hr, hm, hmatch⟩ := Laws.RowMatch.statement i hi
  obtain ⟨q, hfind, hq, rfl | hqr⟩ := find?_first opcodeTable_overlaps hr hmatch
  · rw [firstRow, hfind, ← hm]; rfl
  · rcases hqr (compatible_of_matches hq hmatch) with h | h
    · exact absurd h (not_takesFromIllegal hi hm hq)
    · exact absurd h (not_takesFromIgnored hi hm hq)

end Sys2Proof

open Sys2Proof Sys2Proof.Machine

/-- Settles O3: a word is the encoding of the instruction it decodes to, and the first row that matches that encoding
bears the instruction's mnemonic. -/
theorem decodeSelectsFirstTableRow : Obligations.DecodeSelectsFirstTableRow := by
  intro w
  obtain ⟨i, hi, rfl⟩ := exists_encode w
  rw [decode_encode hi]
  exact firstRow_encode hi

end

section
/-! Receiving whole bytes: a run of pairs is a fold over their symbols, eight bit symbols are one byte appended
(41_assembler.md R132), and a repetition at the reset windows is its six bytes (30_encoding.md R98). -/

namespace Sys2Proof.Machine

/-! ## A run of pairs -/

/-- The receive path after pairs of these symbols, opening a capture first where none is open. -/
def symbolsRx (syms : List Symbol) (r : RxState) : RxState := syms.foldl (fun r sym => symbolRx sym (openRx r)) r

theorem symbolsRx_append (xs ys : List Symbol) (r : RxState) :
    symbolsRx (xs ++ ys) r = symbolsRx ys (symbolsRx xs r) := List.foldl_append

theorem symbolsRx_cons (x : Symbol) (xs : List Symbol) (r : RxState) :
    symbolsRx (x :: xs) r = symbolsRx xs (symbolRx x (openRx r)) := rfl

/-- RX_PAIRs change the receive path, by their symbols, and otherwise ERR and INT_RAW only. -/
theorem execAll_rxPairs (ps : List PulsePair) (s : State) :
    ∃ e f, execAll (ps.map .rxPair) s =
      .next { s with rx := symbolsRx (ps.map (classify s)) s.rx, err := e, intRaw := f } := by
  induction ps generalizing s with
  | nil => exact ⟨s.err, s.intRaw, rfl⟩
  | cons p ps ih =>
    rw [List.map_cons, execAll_cons (exec_rxPair p s)]
    exact ih _

theorem openRx_of_isOpen {r : RxState} (h : r.isOpen = true) : openRx r = r := if_pos h

theorem openRx_of_closed {r : RxState} (h : r.isOpen = false) : openRx r = openedRx := if_neg (by simp [h])

/-! ## A byte -/

/-- The symbol of a bit. -/
def bitSymbol (b : Bool) : Symbol := if b then .bit1 else .bit0

theorem symbolRx_bitSymbol (b : Bool) (r : RxState) :
    symbolRx (bitSymbol b) r = bitRx b { r with lastSym := bitSymbol b } := by cases b <;> rfl

/-- A bit shifted into a partial byte. -/
def shiftIn (x : Byte) (b : Bool) : Byte := (x <<< 1) ||| (BitVec.ofBool b).setWidth 8

theorem shifted_eq (b : Bool) (r : RxState) : shifted b r = shiftIn r.shift b := rfl

/-- The bits of a byte as they are sent, bit 7 first. -/
def byteBits (v : Byte) : List Bool := (List.range 8).map fun j => v.getLsbD (7 - j)

theorem foldl_shiftIn_byteBits (v : Byte) : (byteBits v).foldl shiftIn 0 = v := by
  apply BitVec.eq_of_getLsbD_eq
  intro i hi
  interval_cases i <;> simp [byteBits, List.range_succ, shiftIn]

/-- An open capture that holds these whole bytes, all of them in the buffer, and these bits of the next one. -/
structure Captured (bytes : List Byte) (bits : List Bool) (r : RxState) : Prop where
  isOpen : r.isOpen = true
  count : r.count.toNat = bytes.length
  bufCanonical : Memory.wf r.buf
  read : ∀ k (hk : k < bytes.length), Memory.read r.buf k = bytes[k]
  nbits : r.nbits.toNat = bits.length
  shift : r.shift = bits.foldl shiftIn 0

theorem captured_openedRx : Captured [] [] openedRx where
  isOpen := rfl
  count := rfl
  bufCanonical := Memory.wf_nil
  read _ hk := absurd hk (Nat.not_lt_zero _)
  nbits := rfl
  shift := rfl

theorem Captured.withLastSym {bytes : List Byte} {bits : List Bool} {r : RxState} (h : Captured bytes bits r)
    (sym : Symbol) : Captured bytes bits { r with lastSym := sym } := { h with }

/-- A bit before the eighth. -/
theorem Captured.bit {bytes : List Byte} {bits : List Bool} {r : RxState} (h : Captured bytes bits r)
    (hlt : bits.length < 7) (b : Bool) : Captured bytes (bits ++ [b]) (bitRx b r) := by
  have hn : r.nbits.toNat < 7 := by rw [h.nbits]; exact hlt
  rw [bitRx_more b hn]
  exact { h with
    nbits := by rw [toNat_succ (by omega), h.nbits, List.length_append]; rfl
    shift := by rw [shifted_eq, h.shift, List.foldl_append]; rfl }

/-- The eighth bit of a byte. -/
theorem Captured.eighthBit {bytes : List Byte} {bits : List Bool} {r : RxState} (h : Captured bytes bits r)
    (h7 : bits.length = 7) (hroom : bytes.length < 32) (b : Bool) :
    Captured (bytes ++ [(bits ++ [b]).foldl shiftIn 0]) [] (bitRx b r) := by
  have hn : r.nbits.toNat = 7 := h.nbits.trans h7
  have hv : shifted b r = (bits ++ [b]).foldl shiftIn 0 := by rw [shifted_eq, h.shift, List.foldl_append]; rfl
  rw [bitRx_last b hn, hv]
  exact
    { isOpen := (appendRx_isOpen _ r).trans h.isOpen
      count := by
        change (appendRx _ r).count.toNat = _
        rw [appendRx_count, satIncr_toNat, h.count, List.length_append, List.length_singleton]
        omega
      bufCanonical := appendRx_wf h.bufCanonical _
      read := fun k hk => by
        change Memory.read (appendRx _ r).buf k = _
        rw [appendRx_read h.bufCanonical.1, h.count, List.getElem_append]
        rw [List.length_append, List.length_singleton] at hk
        by_cases hlast : k = bytes.length
        · simp [hlast, hroom]
        · have hk' : k < bytes.length := by omega
          rw [if_neg (fun e => hlast e.2), dif_pos hk']
          exact h.read k hk'
      nbits := rfl
      shift := rfl }

/-- Bits that complete no byte. -/
theorem Captured.bits {bytes : List Byte} {bits : List Bool} {r : RxState} (h : Captured bytes bits r)
    {bs : List Bool} (hlt : bits.length + bs.length ≤ 7) :
    Captured bytes (bits ++ bs) (symbolsRx (bs.map bitSymbol) r) := by
  induction bs generalizing bits r with
  | nil => rwa [List.append_nil]
  | cons b bs ih =>
    rw [List.length_cons] at hlt
    have hb := (h.withLastSym (bitSymbol b)).bit (by omega) b
    rw [List.map_cons, symbolsRx_cons, openRx_of_isOpen h.isOpen, symbolRx_bitSymbol, List.append_cons]
    exact ih hb (by rw [List.length_append, List.length_singleton]; omega)

/-- A whole byte. -/
theorem Captured.byte {bytes : List Byte} {r : RxState} (h : Captured bytes [] r) (hroom : bytes.length < 32) (v : Byte) :
    Captured (bytes ++ [v]) [] (symbolsRx ((byteBits v).map bitSymbol) r) := by
  obtain ⟨bs, b, hbits, h7⟩ : ∃ bs b, byteBits v = bs ++ [b] ∧ bs.length = 7 :=
    ⟨(byteBits v).take 7, v.getLsbD 0, rfl, rfl⟩
  have hbs := h.bits (bs := bs) (by simp [h7])
  have hbyte := (hbs.withLastSym (bitSymbol b)).eighthBit h7 hroom b
  rw [List.nil_append, ← hbits, foldl_shiftIn_byteBits] at hbyte
  rw [hbits, List.map_append, symbolsRx_append, List.map_singleton, symbolsRx_cons, openRx_of_isOpen hbs.isOpen,
    symbolRx_bitSymbol]
  exact hbyte

/-- Whole bytes, while the buffer has room. -/
theorem Captured.append {bytes : List Byte} {r : RxState} (h : Captured bytes [] r) {vs : List Byte}
    (hroom : bytes.length + vs.length ≤ 32) :
    Captured (bytes ++ vs) [] (symbolsRx ((vs.flatMap byteBits).map bitSymbol) r) := by
  induction vs generalizing bytes r with
  | nil => rwa [List.append_nil]
  | cons v vs ih =>
    rw [List.length_cons] at hroom
    rw [List.flatMap_cons, List.map_append, symbolsRx_append, List.append_cons]
    exact ih (h.byte (by omega) v) (by rw [List.length_append, List.length_singleton]; omega)

/-- The captured bytes, read back in order. -/
theorem Captured.read_range {bytes : List Byte} {bits : List Bool} {r : RxState} (h : Captured bytes bits r) :
    (List.range bytes.length).map (Memory.read r.buf) = bytes := by
  apply List.ext_getElem
  · simp
  · intro k _ hk
    simp [h.read k hk]

/-- RX_END on whole bytes closes the capture and leaves them. -/
theorem Captured.endRx {bytes : List Byte} {r : RxState} (h : Captured bytes [] r) :
    endRx r = { r with isOpen := false } := by
  have hn : r.nbits = 0 := BitVec.eq_of_toNat_eq h.nbits
  rw [Machine.endRx, openRx_of_isOpen h.isOpen, flushRx, if_pos hn]

/-! ## A repetition at the reset windows -/

/-- The four RX windows at their reset values (70_reset_and_hazards.md R260). -/
structure ResetWindows (s : State) : Prop where
  hdrWin : s.hdrWin = 0x12C00FA0
  b0Win : s.b0Win = 0x02BC015E
  b1Win : s.b1Win = 0x073A015E
  stopWin : s.stopWin = 0x15E01324

theorem ResetWindows.classify {s : State} (h : ResetWindows s) (p : PulsePair) :
    classify s p = classify State.reset p := classify_congr h.hdrWin h.b0Win h.b1Win h.stopWin p

/-- The pairs of one repetition: Header, 48 bits, Stop. -/
def framePairs (vs : List Byte) : List PulsePair :=
  pairOfWord 0x11309130 ::
    (vs.flatMap byteBits).map (fun b => pairOfWord (if b then 0x0654821C else 0x021C821C)) ++ [pairOfWord 0x1464821C]

theorem rxFrame_eq (a b c : Byte) :
    rxFrame a b c = (framePairs [a, not8 a, b, not8 b, c, not8 c]).map .rxPair := rfl

theorem ResetWindows.framePairs_symbols {s : State} (h : ResetWindows s) (vs : List Byte) :
    (framePairs vs).map (Machine.classify s) = .header :: (vs.flatMap byteBits).map bitSymbol ++ [.stop] := by
  have hbit : ∀ b : Bool, Machine.classify s (pairOfWord (if b then 0x0654821C else 0x021C821C)) = bitSymbol b := by
    intro b
    rw [h.classify]
    revert b; decide
  have hhdr : Machine.classify s (pairOfWord 0x11309130) = .header := by rw [h.classify]; decide
  have hstop : Machine.classify s (pairOfWord 0x1464821C) = .stop := by rw [h.classify]; decide
  rw [framePairs, List.map_append, List.map_cons, List.map_map, hhdr, List.map_singleton, hstop]
  exact congrArg (fun l => _ :: l ++ _) (List.map_congr_left fun b _ => hbit b)

/-- A frame of bytes received while no capture is open. -/
theorem captured_frame {r : RxState} (h : r.isOpen = false) {vs : List Byte} (hroom : vs.length ≤ 32) :
    let r' := symbolsRx (.header :: (vs.flatMap byteBits).map bitSymbol ++ [.stop]) r
    Captured vs [] r' ∧ r'.lastSym = .stop := by
  have hopen : Captured [] [] (symbolRx .header (openRx r)) := by
    rw [openRx_of_closed h]
    exact captured_openedRx.withLastSym .header
  have hbytes := hopen.append (vs := vs) (by simpa using hroom)
  simp only [symbolsRx_append, symbolsRx_cons, openRx_of_isOpen hbytes.isOpen]
  exact ⟨hbytes.withLastSym .stop, rfl⟩

/-! ## The complement check -/

theorem resultWord_ne_complement {c : Command} (h : c ≠ .unrecognized .complement) : resultWord c ≠ 0x16 := by
  cases c with
  | settings x =>
    intro e
    have hkind := (settingsWord_fields x).1
    rw [show settingsWord x = 0x16 from e] at hkind
    exact absurd hkind (by decide)
  | unrecognized reason =>
    cases reason with
    | complement => exact absurd rfl h
    | other | short => decide
  | noFrame | powerOff | swingAuto | swingManual | swingLeftRight => decide

/-- A capture that passes the complement check is not COMPLEMENT (42_interpreter.md R153). -/
theorem interpret_ne_complement {s : State} (h : complementsHold (Memory.read s.rx.buf 0) (Memory.read s.rx.buf 1)
    (Memory.read s.rx.buf 2) (Memory.read s.rx.buf 3) (Memory.read s.rx.buf 4) (Memory.read s.rx.buf 5) = true) :
    interpret s ≠ .unrecognized .complement := by
  unfold interpret
  simp only [h, Bool.not_true, Bool.and_false, Bool.false_eq_true, if_false]
  repeat' split
  all_goals simp

end Sys2Proof.Machine

open Sys2Proof Sys2Proof.Machine

/-- Settles O26: the pairs' symbols are a Header, the bits of the six bytes and a Stop; they leave those bytes. -/
theorem rxFrameGivesItsBytes : Obligations.RxFrameGivesItsBytes := by
  intro a b c d s hclosed hhdr h0 h1 hstop
  have hw : ResetWindows s := ⟨hhdr, h0, h1, hstop⟩
  obtain ⟨e, f, hrun⟩ := execAll_rxPairs (framePairs [a, not8 a, b, not8 b, c, not8 c]) s
  rw [hw.framePairs_symbols, ← rxFrame_eq] at hrun
  obtain ⟨hcap, hlast⟩ := captured_frame hclosed (vs := [a, not8 a, b, not8 b, c, not8 c]) (by simp)
  refine ⟨_, (execAll_append hrun _).trans (execAll_cons (exec_rxEnd d _) []), ?_⟩
  simp only [hcap.endRx]
  have hread := hcap.read_range
  refine ⟨BitVec.eq_of_toNat_eq hcap.count, hlast, hread, resultWord_ne_complement (interpret_ne_complement ?_)⟩
  obtain ⟨r0, r1, r2, r3, r4, r5⟩ : Memory.read _ 0 = a ∧ Memory.read _ 1 = not8 a ∧ Memory.read _ 2 = b ∧
    Memory.read _ 3 = not8 b ∧ Memory.read _ 4 = c ∧ Memory.read _ 5 = not8 c := by simpa [List.range_succ] using hread
  simp [complementsHold, r0, r1, r2, r3, r4, r5]

end

section
/-! The classifier: an equation per branch of its first match (40_classifier.md R112, R113), and windows that cannot be
told apart behind an earlier one (R121). -/

namespace Sys2Proof.Machine

/-! ## First match, branch by branch -/

section
variable {s : State} {p : PulsePair}

theorem classify_of_badPolarity (hp : ¬polarityOk p) : classify s p = .noise := by
  simp [classify, hp]

theorem classify_of_header (hp : polarityOk p) (hh : inWin p.d0 s.hdrWin ∧ inWin p.d1 s.hdrWin) :
    classify s p = .header := by
  simp [classify, hp, hh]

/-- Past the header test the space alone decides. -/
theorem classify_of_not_header (hp : polarityOk p) (hh : ¬(inWin p.d0 s.hdrWin ∧ inWin p.d1 s.hdrWin)) :
    classify s p =
      if inWin p.d1 s.b0Win then .bit0
      else if inWin p.d1 s.b1Win then .bit1
      else if inWin p.d1 s.stopWin then .stop
      else .noise := by
  have hh' : ¬(inWin p.d0 s.hdrWin && inWin p.d1 s.hdrWin) := by rwa [Bool.and_eq_true]
  rw [classify, hp, if_neg (by decide), if_neg hh']

end

/-- A pair's symbol does not depend on how B1_WIN treats the spaces that B0_WIN takes first. -/
theorem classify_withB1Win {s : State} {w : Word}
    (h : ∀ d, ¬inWin d s.b0Win → inWin d s.b1Win = inWin d w) (p : PulsePair) :
    classify { s with b1Win := w } p = classify s p := by
  by_cases h0 : inWin p.d1 s.b0Win
  · simp only [classify, if_pos h0]
  · simp only [classify, if_neg h0, h _ h0]

/-! ## What RX_PAIR leaves -/

theorem exec_rxPair_lastSym (p : PulsePair) (s : State) :
    ∃ t, exec (.rxPair p) s = .next t ∧ t.rx.lastSym = classify s p :=
  ⟨_, exec_rxPair p s, symbolRx_lastSym _ _⟩

theorem exec_wrB1Win (v : Word) (s : State) : exec (.wrB1Win v) s = .next { s with b1Win := v &&& pairMask } := rfl

/-- The reset window of Bit 1 and the disjoint one differ only on spaces that are Bit 0 first (R121). -/
theorem inWin_disjoint_b1Win {d : Dur} (h0 : ¬inWin d 0x02BC015E) : inWin d 0x073A015E = inWin d 0x073A02BD := by
  rw [Bool.eq_iff_iff]
  simp only [inWin_iff, BitVec.reduceToNat, Nat.reducePow, Nat.reduceMod, Nat.reduceDiv] at h0 ⊢
  omega

end Sys2Proof.Machine

open Sys2Proof Sys2Proof.Machine

/-- Settles O14: the windows as arithmetic, then the classifier's equation for each branch. -/
theorem classifierIsFirstMatch : Obligations.ClassifierIsFirstMatch := by
  intro p s
  obtain ⟨t, hexec, hsym⟩ := exec_rxPair_lastSym p s
  refine ⟨t, hexec, ?_⟩
  simp only [← inWin_iff, ← polarityOk_iff, hsym]
  refine ⟨classify_of_badPolarity, classify_of_header, ?bit0, ?bit1, ?stop, ?noise⟩
  case bit0 =>
    intro hp hh h0
    rw [classify_of_not_header hp hh, if_pos h0]
  case bit1 =>
    intro hp hh h0 h1
    rw [classify_of_not_header hp hh, if_neg h0, if_pos h1]
  case stop =>
    intro hp hh h0 h1 hs
    rw [classify_of_not_header hp hh, if_neg h0, if_neg h1, if_pos hs]
  case noise =>
    intro hp hh h0 h1 hs
    rw [classify_of_not_header hp hh, if_neg h0, if_neg h1, if_neg hs]

/-- Settles O13: the first match (O14) with the reset windows' bounds written out; each range of the table lies in one
window and outside those before it. -/
theorem classifyAtResetWindows : Obligations.ClassifyAtResetWindows := by
  intro p s whdr w0 w1 wstop
  obtain ⟨t, hexec, hpol, hhdr, hbit0, hbit1, hstop, hnoise⟩ := classifierIsFirstMatch p s
  simp only [whdr, w0, w1, wstop, BitVec.reduceToNat, Nat.reducePow, Nat.reduceMod, Nat.reduceDiv]
    at hhdr hbit0 hbit1 hstop hnoise
  refine ⟨t, hexec, hpol, fun hm hs => ⟨hhdr ⟨hm, hs⟩, fun hh => ?_⟩⟩
  refine ⟨?below, hbit0 ⟨hm, hs⟩ hh, ?bit1, ?between, ?stop, ?above⟩
  case bit1 => exact fun h => hbit1 ⟨hm, hs⟩ hh (by omega) (by omega)
  case stop => exact fun h => hstop ⟨hm, hs⟩ hh (by omega) (by omega) (by omega)
  case below | between | above => exact fun h => hnoise ⟨hm, hs⟩ hh (by omega) (by omega) (by omega)

/-- Settles O15: the write changes B1_WIN alone, and the pair's symbol is the same under either window. -/
theorem disjointWindowsClassifyAlike : Obligations.DisjointWindowsClassifyAlike := by
  intro p s w0 w1
  have hsym : classify { s with b1Win := 0x073A02BD } p = classify s p :=
    classify_withB1Win (by rw [w0, w1]; exact fun _ => inWin_disjoint_b1Win) p
  refine ⟨_, _, execAll_cons (exec_rxPair p s) [],
    (execAll_cons (exec_wrB1Win _ s) _).trans (execAll_cons (exec_rxPair p _) []), rfl, ?_⟩
  exact congrArg (fun sym => symbolRx sym (openRx s.rx)) hsym

end

section
/-! The receive operations (41_assembler.md R137 to R141): each by its cases, and what it leaves and raises in each. -/

namespace Sys2Proof.Machine

/-! ## What an operation may raise -/

@[simp] theorem withRx_rx (s : State) (r : RxState) (o : Bool) : (withRx s r o).rx = r := rfl

theorem withRx_unraised (s : State) (r : RxState) :
    (withRx s r false).err = s.err ∧ (withRx s r false).intRaw = s.intRaw := ⟨BitVec.or_zero, BitVec.or_zero⟩

theorem errBit_rxIllOp_getLsbD (k : Nat) : (errBit .rxIllOp).getLsbD k = (k == 4) := by
  rw [show errBit .rxIllOp = BitVec.twoPow 32 4 from rfl, BitVec.getLsbD_twoPow]
  exact decide_eq_decide.mpr eq_comm

theorem intBit_err_getLsbD (k : Nat) : (intBit .err).getLsbD k = (k == 2) := by
  rw [show intBit .err = BitVec.twoPow 32 2 from rfl, BitVec.getLsbD_twoPow]
  exact decide_eq_decide.mpr eq_comm

/-! ## One byte appended -/

theorem appendRx_read_of_some {r : RxState} {a : Nat} (h : appendAddr r = some a) (hr : Memory.wf r.buf) (v : Byte) :
    Memory.read (appendRx v r).buf a = v ∧ ∀ k, k ≠ a → Memory.read (appendRx v r).buf k = Memory.read r.buf k := by
  obtain ⟨rfl, hlt⟩ := appendAddr_eq_some h
  simp only [appendRx_read hr.1]
  exact ⟨if_pos ⟨hlt, trivial⟩, fun k hk => if_neg fun e => hk e.2⟩

theorem appendRx_buf_of_none {r : RxState} (h : appendAddr r = none) (v : Byte) : (appendRx v r).buf = r.buf := by
  simp only [appendRx, h]

theorem appendRx_withLastSym (v : Byte) (r : RxState) (sym : Symbol) :
    appendRx v { r with lastSym := sym } = { appendRx v r with lastSym := sym } := by
  have h : appendAddr { r with lastSym := sym } = appendAddr r := rfl
  simp only [appendRx, h]
  cases appendAddr r <;> rfl

/-- The padded partial byte (41_assembler.md R134). -/
theorem padded_toNat (v : Byte) (n : Nat) : (v <<< (8 - n)).toNat = v.toNat * 2 ^ (8 - n) % 256 := by
  rw [BitVec.toNat_shiftLeft, Nat.shiftLeft_eq]

/-! ## RX_PAIR and RX_END by their cases -/

theorem symbolRx_of_not_bit {sym : Symbol} (h0 : sym ≠ .bit0) (h1 : sym ≠ .bit1) (r : RxState) :
    symbolRx sym r = { r with lastSym := sym } ∧ symbolOvf sym r = false := by
  cases sym with
  | bit0 => exact absurd rfl h0
  | bit1 => exact absurd rfl h1
  | noPair | header | stop | noise => exact ⟨rfl, rfl⟩

theorem exists_bitSymbol {sym : Symbol} (h : sym = .bit0 ∨ sym = .bit1) : ∃ b, sym = bitSymbol b :=
  h.elim (fun h0 => ⟨false, h0⟩) fun h1 => ⟨true, h1⟩

theorem symbolOvf_bitSymbol (b : Bool) (r : RxState) :
    symbolOvf (bitSymbol b) r = (r.nbits == 7 && bufFull r) := by cases b <;> rfl

theorem symbolRx_bitSymbol_more (b : Bool) {r : RxState} (h : r.nbits.toNat < 7) :
    symbolRx (bitSymbol b) r = { r with shift := shifted b r, nbits := r.nbits + 1, lastSym := bitSymbol b } ∧
      symbolOvf (bitSymbol b) r = false := by
  have h7 : (r.nbits == 7) = false := beq_eq_false_iff_ne.mpr fun e => by rw [e] at h; exact absurd h (by decide)
  rw [symbolOvf_bitSymbol, h7, symbolRx_bitSymbol, bitRx_more (r := { r with lastSym := bitSymbol b }) b h]
  exact ⟨rfl, rfl⟩

theorem symbolRx_bitSymbol_last (b : Bool) {r : RxState} (h : r.nbits.toNat = 7) :
    symbolRx (bitSymbol b) r = { appendRx (shifted b r) r with shift := 0, nbits := 0, lastSym := bitSymbol b } ∧
      symbolOvf (bitSymbol b) r = bufFull r := by
  have h7 : (r.nbits == 7) = true := beq_iff_eq.mpr (BitVec.eq_of_toNat_eq h)
  rw [symbolOvf_bitSymbol, h7, symbolRx_bitSymbol, bitRx_last (r := { r with lastSym := bitSymbol b }) b h,
    appendRx_withLastSym]
  exact ⟨rfl, rfl⟩

theorem flushRx_of_empty {r : RxState} (h : r.nbits = 0) : flushRx r = r ∧ flushOvf r = false := by
  simp [flushRx, flushOvf, h]

theorem flushRx_of_partial {r : RxState} (h : r.nbits ≠ 0) :
    flushRx r = { appendRx (r.shift <<< (8 - r.nbits.toNat)) r with shift := 0, nbits := 0 } ∧
      flushOvf r = bufFull r := by
  rw [flushRx, flushOvf, if_neg h, bne_iff_ne.mpr h]
  exact ⟨rfl, rfl⟩

@[simp] theorem flushRx_lastSym (r : RxState) : (flushRx r).lastSym = r.lastSym := by
  unfold flushRx; split <;> simp

/-- An open capture with no byte and no partial byte is one that has just opened, but for its last symbol. -/
theorem ReceiveOk.eq_openedRx {r : RxState} (h : ReceiveOk r) (hopen : r.isOpen = true) (hcount : r.count = 0)
    (hnbits : r.nbits = 0) : r = { openedRx with lastSym := r.lastSym } := by
  have hshift : r.shift = 0 := by
    have := h.shiftRightAligned
    rw [hnbits] at this
    exact BitVec.eq_of_toNat_eq (Nat.lt_one_iff.mp this)
  have hbuf : r.buf = [] := Memory.ext_of_wf h.bufCanonical Memory.wf_nil fun k =>
    h.zeroBeyondCount k (by rw [hcount]; exact Nat.zero_le k)
  obtain ⟨isOpen, shift, nbits, count, buf, lastSym⟩ := r
  cases hopen; cases hshift; cases hnbits; cases hcount; cases hbuf
  rfl

end Sys2Proof.Machine

open Sys2Proof Sys2Proof.Machine

/-- Settles O16: by the symbol, and for a bit by the bits before it and the room in the buffer. -/
theorem rxPairEffect : Obligations.RxPairEffect := by
  intro p s r sym b
  have hopen : r.isOpen = true := openRx_isOpen s.rx
  refine ⟨withRx s (symbolRx sym r) (symbolOvf sym r), exec_rxPair p s, rfl, ?_⟩
  clear_value r sym
  rw [withRx_rx]
  refine ⟨?opened, symbolRx_lastSym sym r, ?other, ?more, ?eighth, ?stored, ?dropped⟩
  case opened => rw [symbolRx_isOpen, hopen]
  case other =>
    rintro ⟨h0, h1⟩
    obtain ⟨hrx, hovf⟩ := symbolRx_of_not_bit h0 h1 r
    rw [hovf]
    exact ⟨hrx, withRx_unraised s _⟩
  all_goals
    intro hbit hn
    obtain ⟨c, rfl⟩ := exists_bitSymbol hbit
    have hb : b = c.toNat := by cases c <;> rfl
    have hv := shifted_toNat c r
    rw [← hb] at hv
  case more =>
    obtain ⟨hrx, hovf⟩ := symbolRx_bitSymbol_more c hn
    rw [hovf, hrx]
    exact ⟨hv, toNat_succ (by omega), rfl, fun _ => rfl, withRx_unraised s _⟩
  all_goals
    obtain ⟨hrx, hovf⟩ := symbolRx_bitSymbol_last c hn
    rw [hrx]
  case eighth => exact ⟨rfl, rfl, by rw [appendRx_count, satIncr_toNat]⟩
  case stored =>
    intro a ha hwf
    obtain ⟨hread, hothers⟩ := appendRx_read_of_some ha hwf (shifted c r)
    rw [hovf, bufFull_of_some ha]
    exact ⟨(appendAddr_eq_some ha).1, by rw [hread, hv], hothers, withRx_unraised s _⟩
  case dropped =>
    intro ha
    rw [hovf, bufFull_of_none ha, appendRx_buf_of_none ha]
    exact ⟨appendAddr_eq_none ha, fun _ => rfl, rfl, rfl⟩

/-- Settles O17: by the partial byte and the room in the buffer. -/
theorem rxEndEffect : Obligations.RxEndEffect := by
  intro d s r
  refine ⟨_, exec_rxEnd d s, rfl, ?_⟩
  rw [endRx, show openRx s.rx = r from rfl]
  clear_value r
  refine ⟨rfl, flushRx_lastSym r, ?done, flushRx_nbits r, ?empty, ?counted, ?stored, ?dropped⟩
  case done => simp [intBit]
  case empty =>
    intro h0
    obtain ⟨hrx, hovf⟩ := flushRx_of_empty h0
    rw [hrx, hovf]
    exact ⟨rfl, BitVec.or_zero, congrArg (· ||| 1) BitVec.or_zero⟩
  all_goals
    intro h0
    obtain ⟨hrx, hovf⟩ := flushRx_of_partial h0
    rw [hrx]
  case counted => exact ⟨rfl, by rw [appendRx_count, satIncr_toNat]⟩
  case stored =>
    intro a ha hwf
    obtain ⟨hread, hothers⟩ := appendRx_read_of_some ha hwf (r.shift <<< (8 - r.nbits.toNat))
    rw [hovf, bufFull_of_some ha]
    exact ⟨(appendAddr_eq_some ha).1, by rw [hread, padded_toNat], hothers, BitVec.or_zero,
      congrArg (· ||| 1) BitVec.or_zero⟩
  case dropped =>
    intro ha
    rw [hovf, bufFull_of_none ha, appendRx_buf_of_none ha]
    exact ⟨appendAddr_eq_none ha, fun _ => rfl, rfl, BitVec.or_assoc ..⟩

/-- Settles O23: under the invariant the capture is the one just opened, but for its symbol. -/
theorem nodataLikeEmptyEnd : Obligations.NodataLikeEmptyEnd := by
  intro d s hok hopen hcount hnbits
  have hrx := hok.eq_openedRx hopen hcount hnbits
  have hend : endRx s.rx = { RxState.reset with lastSym := s.rx.lastSym } := congrArg endRx hrx
  have hovf : flushOvf (openRx s.rx) = false := (flushRx_of_empty (by rw [openRx_of_isOpen hopen, hnbits])).2
  have hcommand : interpret { s with rx := endRx s.rx } = .noFrame := by rw [hend]; rfl
  have hrun : exec (.rxEnd d) s = .next { s with
      rx := { RxState.reset with lastSym := s.rx.lastSym }, result := 1, resultRaw := 0,
      intRaw := s.intRaw ||| intBit .rxDone } := by
    rw [exec_rxEnd, hcommand, hovf, hend]
    simp [resultWord, resultRawWord]
  exact ⟨_, _, hrun, exec_rxNodata d s, rfl, rfl⟩

/-- Settles O22: the receive path is the one after reset. -/
theorem rxNodataEffect : Obligations.RxNodataEffect := fun d s =>
  ⟨_, exec_rxNodata d s, rfl, rfl, rfl, rfl, rfl, rfl, Memory.read_nil⟩

/-- Settles O24: the operation raises RX_ILL_OP, bit 4 of ERR, and so bit 2 of INT_RAW. -/
theorem rxRsvdEffect : Obligations.RxRsvdEffect := by
  intro d s
  refine ⟨raiseErr .rxIllOp s, rfl, rfl, fun k => ?_, fun k => ?_⟩
  · rw [raiseErr_err, BitVec.getLsbD_or, errBit_rxIllOp_getLsbD]
  · rw [raiseErr_intRaw, BitVec.getLsbD_or, intBit_err_getLsbD]

end

section
/-! Whole captures: what a run of pairs and an RX_END leave is a function of the pairs' symbols (41_assembler.md R143), and
the bytes among it are those of the packing law (R133, R135). -/

namespace Sys2Proof.Machine

/-! ## Capture by capture -/

/-- Opening the capture before a run of pairs or after it is the same. -/
theorem openRx_symbolsRx (syms : List Symbol) (r : RxState) :
    openRx (symbolsRx syms r) = symbolsRx syms (openRx r) := by
  induction syms generalizing r with
  | nil => rfl
  | cons x xs ih =>
    have hopen : (symbolRx x (openRx r)).isOpen = true := by rw [symbolRx_isOpen, openRx_isOpen]
    rw [symbolsRx_cons, symbolsRx_cons, ih, openRx_of_isOpen hopen, openRx_of_isOpen (openRx_isOpen r)]

/-- A capture whole, from a closed receive path: the pairs' symbols and then the flush, from what opening gives. -/
theorem endRx_symbolsRx {r : RxState} (h : r.isOpen = false) (syms : List Symbol) :
    endRx (symbolsRx syms r) = { flushRx (symbolsRx syms openedRx) with isOpen := false } := by
  rw [endRx, openRx_symbolsRx, openRx_of_closed h]

/-- RX_PAIRs and then RX_END: the receive path by the pairs' symbols, the results by what that leaves. -/
theorem execAll_capture (ps : List PulsePair) (d : Word) {s : State} (h : s.rx.isOpen = false) :
    ∃ t, execAll (ps.map .rxPair ++ [.rxEnd d]) s = .next t ∧
      t.rx = { flushRx (symbolsRx (ps.map (classify s)) openedRx) with isOpen := false } ∧
      t.result = resultWord (interpret { s with rx := t.rx }) ∧
      t.resultRaw = resultRawWord (interpret { s with rx := t.rx }) := by
  obtain ⟨e, f, hrun⟩ := execAll_rxPairs ps s
  exact ⟨_, (execAll_append hrun _).trans (execAll_cons (exec_rxEnd d _) []), endRx_symbolsRx h _, rfl, rfl⟩

/-- Of CFG the interpreter reads CHK_CMPL only. -/
theorem interpret_congr_chkCmpl {s t : State} (hrx : s.rx = t.rx) (hchk : cfgChkCmpl s.cfg = cfgChkCmpl t.cfg)
    (hvar : s.variant = t.variant) : interpret s = interpret t := by
  unfold interpret; rw [hrx, hchk, hvar]

/-! ## The bits of a capture -/

/-- The bit a symbol contributes (41_assembler.md R136). -/
def symbolBit (sym : Symbol) : Option Bool :=
  if sym = .bit0 then some false else if sym = .bit1 then some true else none

theorem symbolBit_eq_none {sym : Symbol} (h : symbolBit sym = none) : sym ≠ .bit0 ∧ sym ≠ .bit1 := by
  constructor <;> rintro rfl <;> cases h

theorem symbolBit_eq_some {sym : Symbol} {b : Bool} (h : symbolBit sym = some b) : sym = bitSymbol b := by
  cases sym with
  | bit0 | bit1 => cases h; rfl
  | noPair | header | stop | noise => cases h

/-- Byte `k` of the packing law: Σ b(8k+j)·2^(7-j), with 0 after the last bit (41_assembler.md R133). -/
def byteValue (bits : List Bool) (k : Nat) : Nat :=
  ∑ j ∈ Finset.range 8, (bits.getD (8 * k + j) false).toNat * 2 ^ (7 - j)

theorem byteValue_eq_zero {bits : List Bool} {k : Nat} (h : bits.length ≤ 8 * k) : byteValue bits k = 0 := by
  refine Finset.sum_eq_zero fun j _ => ?_
  rw [List.getD_eq_default _ _ (by omega), Bool.toNat_false, Nat.zero_mul]

theorem getD_append_singleton_toNat (bits : List Bool) (b : Bool) (i : Nat) :
    ((bits ++ [b]).getD i false).toNat = (bits.getD i false).toNat + if i = bits.length then b.toNat else 0 := by
  rcases lt_trichotomy i bits.length with h | rfl | h
  · rw [List.getD_append _ _ _ _ h, if_neg h.ne, Nat.add_zero]
  · simp
  · rw [List.getD_eq_default _ _ (by simpa using h), List.getD_eq_default _ _ h.le, if_neg h.ne']
    rfl

/-- One bit more adds its weight to the byte it falls in. -/
theorem byteValue_append (bits : List Bool) (b : Bool) (k : Nat) : byteValue (bits ++ [b]) k =
    byteValue bits k + if k = bits.length / 8 then b.toNat * 2 ^ (7 - bits.length % 8) else 0 := by
  simp only [byteValue, getD_append_singleton_toNat, add_mul, ite_mul, zero_mul, Finset.sum_add_distrib]
  congr 1
  split
  · next hk =>
    have hpos : ∀ j ∈ Finset.range 8, 8 * k + j = bits.length ↔ bits.length % 8 = j := fun j hj => by
      have := Finset.mem_range.mp hj
      omega
    have hmem : bits.length % 8 ∈ Finset.range 8 := Finset.mem_range.mpr (by omega)
    rw [Finset.sum_congr rfl fun j hj => if_congr (hpos j hj) rfl rfl, Finset.sum_ite_eq, if_pos hmem]
  · next hk =>
    refine Finset.sum_eq_zero fun j hj => if_neg ?_
    have := Finset.mem_range.mp hj
    omega

theorem byteValue_append_of_lt {bits : List Bool} {k : Nat} (h : k < bits.length / 8) (b : Bool) :
    byteValue (bits ++ [b]) k = byteValue bits k := by
  rw [byteValue_append, if_neg h.ne, Nat.add_zero]

/-! ## The bytes of a capture -/

/-- A receive path that has taken `n` bytes of these values, of which the buffer holds the first 32. -/
structure Stored (f : Nat → Nat) (n : Nat) (r : RxState) : Prop where
  count : r.count.toNat = min n 65535
  read : ∀ k, k < 32 → k < n → (Memory.read r.buf k).toNat = f k

theorem Stored.append {f : Nat → Nat} {n : Nat} {r : RxState} (h : Stored f n r) (hr : Memory.wf r.buf) {v : Byte}
    (hv : v.toNat = f n) : Stored f (n + 1) { appendRx v r with shift := 0, nbits := 0 } where
  count := by
    change (appendRx v r).count.toNat = _
    rw [appendRx_count, satIncr_toNat, h.count]
    omega
  read k hk hlt := by
    have hc := h.count
    change (Memory.read (appendRx v r).buf k).toNat = _
    rw [appendRx_read hr.1]
    by_cases hlast : k = n
    · subst hlast
      rw [if_pos (by omega), hv]
    · rw [if_neg (by omega)]
      exact h.read k hk (by omega)

theorem Stored.congr {f g : Nat → Nat} {n : Nat} {r : RxState} (h : Stored f n r) (hfg : ∀ k, k < n → f k = g k) :
    Stored g n r :=
  ⟨h.count, fun k hk hlt => (h.read k hk hlt).trans (hfg k hlt)⟩

/-- A receive path that these bits have been shifted into since the capture opened: their whole bytes are stored, and the
rest are the partial byte, which padded with zeros is the next byte of the packing law. -/
structure Packed (bits : List Bool) (r : RxState) : Prop where
  bytesOk : BytesOk r
  stored : Stored (byteValue bits) (bits.length / 8) r
  nbits : r.nbits.toNat = bits.length % 8
  shift : r.shift.toNat * 2 ^ (8 - r.nbits.toNat) = byteValue bits (bits.length / 8)

theorem packed_openedRx : Packed [] openedRx where
  bytesOk := { receiveOk_reset with }
  stored := ⟨rfl, fun _ _ hk => absurd hk (Nat.not_lt_zero _)⟩
  nbits := rfl
  shift := rfl

theorem Packed.withLastSym {bits : List Bool} {r : RxState} (h : Packed bits r) (sym : Symbol) :
    Packed bits { r with lastSym := sym } := { h with bytesOk := { h.bytesOk with }, stored := { h.stored with } }

/-- The shifted byte, padded with zeros, is the packing law's with the new bit. -/
theorem Packed.shifted {bits : List Bool} {r : RxState} (h : Packed bits r) (b : Bool) :
    (shifted b r).toNat * 2 ^ (7 - r.nbits.toNat) = byteValue (bits ++ [b]) (bits.length / 8) := by
  have hlt : 2 * r.shift.toNat + b.toNat < 256 := by
    have := h.bytesOk.shiftRightAligned
    have := Bool.toNat_le b
    have : 2 ^ r.nbits.toNat ≤ 2 ^ 7 := Nat.pow_le_pow_right two_pos (by omega)
    omega
  have hn : 8 - r.nbits.toNat = 7 - r.nbits.toNat + 1 := by omega
  rw [byteValue_append, if_pos rfl, ← h.shift, ← h.nbits, shifted_toNat, Nat.mod_eq_of_lt hlt, hn]
  ring

theorem Packed.bit {bits : List Bool} {r : RxState} (h : Packed bits r) (b : Bool) :
    Packed (bits ++ [b]) (bitRx b r) := by
  have hn := h.nbits
  have hshifted := h.shifted b
  have hstored : Stored (byteValue (bits ++ [b])) (bits.length / 8) r :=
    h.stored.congr fun k hk => (byteValue_append_of_lt hk b).symm
  have hlen : (bits ++ [b]).length = bits.length + 1 := List.length_append
  have hbytes := h.bytesOk.bitRx b
  by_cases h7 : r.nbits.toNat = 7
  · have hq : (bits ++ [b]).length / 8 = bits.length / 8 + 1 := by omega
    rw [bitRx_last b h7] at hbytes ⊢
    refine ⟨hbytes, ?_, ?_, ?_⟩
    · rw [hq]
      exact hstored.append h.bytesOk.bufCanonical (by simpa [h7] using hshifted)
    · change 0 = _
      omega
    · rw [byteValue_eq_zero (by omega)]
      exact Nat.zero_mul _
  · have hq : (bits ++ [b]).length / 8 = bits.length / 8 := by omega
    have hn' : (r.nbits + 1).toNat = r.nbits.toNat + 1 := toNat_succ (by omega)
    rw [bitRx_more b (by omega)] at hbytes ⊢
    refine ⟨hbytes, ?_, ?_, ?_⟩
    · rw [hq]
      exact { hstored with }
    · change (r.nbits + 1).toNat = _
      omega
    · change (Machine.shifted b r).toNat * 2 ^ (8 - (r.nbits + 1).toNat) = _
      rw [hq, ← hshifted, hn', Nat.succ_sub_succ]

/-- A run of pairs shifts in the bits among its symbols. -/
theorem Packed.symbols {bits : List Bool} {r : RxState} (h : Packed bits r) (hopen : r.isOpen = true)
    (syms : List Symbol) : Packed (bits ++ syms.filterMap symbolBit) (symbolsRx syms r) := by
  induction syms generalizing bits r with
  | nil => rwa [List.filterMap_nil, List.append_nil]
  | cons x xs ih =>
    have hopen' : (symbolRx x r).isOpen = true := (symbolRx_isOpen x r).trans hopen
    rw [symbolsRx_cons, openRx_of_isOpen hopen]
    cases hx : symbolBit x with
    | none =>
      rw [List.filterMap_cons_none hx]
      obtain ⟨h0, h1⟩ := symbolBit_eq_none hx
      refine ih ?_ hopen'
      rw [(symbolRx_of_not_bit h0 h1 r).1]
      exact h.withLastSym x
    | some b =>
      rw [List.filterMap_cons_some hx, List.append_cons]
      refine ih ?_ hopen'
      rw [symbolBit_eq_some hx, symbolRx_bitSymbol]
      exact (h.withLastSym _).bit b

/-- The flush makes the partial byte a whole one (41_assembler.md R134). -/
theorem Packed.flush {bits : List Bool} {r : RxState} (h : Packed bits r) :
    Stored (byteValue bits) ((bits.length + 7) / 8) (flushRx r) := by
  have hn := h.nbits
  by_cases h0 : r.nbits = 0
  · have hz : r.nbits.toNat = 0 := congrArg BitVec.toNat h0
    rw [(flushRx_of_empty h0).1, show (bits.length + 7) / 8 = bits.length / 8 by omega]
    exact h.stored
  · have hz : r.nbits.toNat ≠ 0 := fun e => h0 (BitVec.eq_of_toNat_eq e)
    rw [(flushRx_of_partial h0).1, show (bits.length + 7) / 8 = bits.length / 8 + 1 by omega]
    refine h.stored.append h.bytesOk.bufCanonical ?_
    rw [padded_toNat, h.shift, Nat.mod_eq_of_lt]
    rw [← h.shift]
    calc r.shift.toNat * 2 ^ (8 - r.nbits.toNat)
      _ < 2 ^ r.nbits.toNat * 2 ^ (8 - r.nbits.toNat) :=
        Nat.mul_lt_mul_of_pos_right h.bytesOk.shiftRightAligned (Nat.two_pow_pos _)
      _ = 256 := by rw [← pow_add, show r.nbits.toNat + (8 - r.nbits.toNat) = 8 by omega]; rfl

/-- The bytes of a capture that has been closed: those of the packing law, also beyond the count. -/
theorem Packed.flush_read {bits : List Bool} {r : RxState} (h : Packed bits r) {k : Nat} (hk : k < 32) :
    (Memory.read (flushRx r).buf k).toNat = byteValue bits k := by
  by_cases hlt : k < (bits.length + 7) / 8
  · exact h.flush.read k hk hlt
  · have hcount := h.flush.count
    rw [h.bytesOk.flushRx.zeroBeyondCount k (by omega), byteValue_eq_zero (by omega)]
    rfl

end Sys2Proof.Machine

open Sys2Proof Sys2Proof.Machine

/-- Settles O25: the capture opens empty, each bit adds its weight to the byte it falls in, and the flush completes the
last byte. -/
theorem packingAndCountLaw : Obligations.PackingAndCountLaw := by
  intro ps d s hclosed
  obtain ⟨t, hrun, hrx, -, -⟩ := execAll_capture ps d hclosed
  have hpacked := packed_openedRx.symbols rfl (ps.map (classify s))
  rw [List.nil_append, List.filterMap_map] at hpacked
  refine ⟨t, hrun, ?_⟩
  rw [hrx]
  exact ⟨rfl, hpacked.flush.count, fun k hk => hpacked.flush_read hk⟩

/-- Settles O27: what opening a capture leaves does not depend on the capture before it, and the pairs' symbols and the
interpreter read the windows, CHK_CMPL and VARIANT only. -/
theorem noDecodeDependsOnAnEarlierCapture : Obligations.NoDecodeDependsOnAnEarlierCapture := by
  intro ps d s s' hclosed hclosed' hhdr h0 h1 hstop hchk hvar
  obtain ⟨t, hrun, hrx, hres, hraw⟩ := execAll_capture ps d hclosed
  obtain ⟨t', hrun', hrx', hres', hraw'⟩ := execAll_capture ps d hclosed'
  have hsyms : classify s' = classify s := funext (classify_congr hhdr h0 h1 hstop)
  have hrxEq : t'.rx = t.rx := by rw [hrx, hrx', hsyms]
  have hcommand : interpret { s' with rx := t'.rx } = interpret { s with rx := t.rx } :=
    interpret_congr_chkCmpl hrxEq hchk hvar
  exact ⟨t, t', hrun, hrun', hrxEq, by rw [hres, hres', hcommand], by rw [hraw, hraw', hcommand]⟩

end

section
/-! The interpreter (42_interpreter.md R150 to R166): its tests on the byte count and the six bytes as arithmetic, the
fields of a SETTINGS command by the spec's tables, and what RX_END leaves in RESULT and RESULT_RAW by them. -/

namespace Sys2Proof.Machine

/-! ## The tests -/

/-- Byte `k` of the capture as a number. -/
abbrev capturedByte (s : State) (k : Nat) : Nat := (Memory.read s.rx.buf k).toNat

/-- The complement check is on and fails (42_interpreter.md R153). -/
abbrev FailsComplement (s : State) : Prop :=
  s.cfg.getLsbD 0 = true ∧
    ¬(capturedByte s 1 = 255 - capturedByte s 0 ∧ capturedByte s 3 = 255 - capturedByte s 2 ∧
      capturedByte s 5 = 255 - capturedByte s 4)

/-- The sentinel that VARIANT bit `en` enables is there: bytes `i` and `j` are `x` and `y` (R154 to R158). -/
abbrev HasSentinel (s : State) (en i x j y : Nat) : Prop :=
  s.variant.getLsbD en = true ∧ capturedByte s i = x ∧ capturedByte s j = y

theorem byte_beq_iff (a b : Byte) : (a == b) = true ↔ a.toNat = b.toNat := by
  rw [beq_iff_eq, BitVec.toNat_inj]

theorem not8_toNat (a : Byte) : (not8 a).toNat = 255 - a.toNat := BitVec.toNat_not

theorem failsComplement_iff (s : State) :
    (cfgChkCmpl s.cfg && !complementsHold (Memory.read s.rx.buf 0) (Memory.read s.rx.buf 1) (Memory.read s.rx.buf 2)
      (Memory.read s.rx.buf 3) (Memory.read s.rx.buf 4) (Memory.read s.rx.buf 5)) = true ↔ FailsComplement s := by
  simp only [complementsHold, cfgChkCmpl, Bool.and_eq_true, Bool.not_eq_true', ← Bool.not_eq_true, byte_beq_iff,
    not8_toNat, and_assoc]

theorem hasSentinel_iff (s : State) (en i j : Nat) (x y : Byte) :
    (s.variant.getLsbD en && Memory.read s.rx.buf i == x && Memory.read s.rx.buf j == y) = true ↔
      HasSentinel s en i x.toNat j y.toNat := by
  simp only [Bool.and_eq_true, byte_beq_iff, and_assoc]

theorem interpret_of_noByte {s : State} (h : s.rx.count.toNat = 0) : interpret s = .noFrame := if_pos h

theorem interpret_of_short {s : State} (h : 1 ≤ s.rx.count.toNat ∧ s.rx.count.toNat ≤ 5) :
    interpret s = .unrecognized .short := by
  have hlt : s.rx.count.toNat < Config.bytesPerFrame := Nat.lt_succ_of_le h.2
  rw [interpret, if_neg (by omega), if_pos hlt]

/-- From six bytes on, the rest of the precedence decides (R153 to R158). -/
theorem interpret_of_full {s : State} (h : 6 ≤ s.rx.count.toNat) : interpret s =
    if FailsComplement s then .unrecognized .complement
    else if HasSentinel s 0 2 0x7B 4 0xE0 then .powerOff
    else if HasSentinel s 1 2 0xF5 4 0x04 then .swingAuto
    else if HasSentinel s 2 2 0xF5 4 0x05 then .swingManual
    else if HasSentinel s 3 2 0x6B 4 0xE0 then .swingLeftRight
    else if HasSentinel s 4 0 0xB5 2 0xF5 then .unrecognized .other
    else .settings (settingsOf s.variant (Memory.read s.rx.buf 2) (Memory.read s.rx.buf 4)) := by
  have hlt : ¬s.rx.count.toNat < Config.bytesPerFrame := Nat.not_lt.mpr h
  rw [interpret, if_neg (by omega), if_neg hlt]
  simp only [failsComplement_iff, varPwrOff, varSwAuto, varSwMan, varSwLr, varOther, hasSentinel_iff]
  rfl

/-- The interpreter reads no byte beyond byte 5 (R164). -/
theorem interpret_congr_sixBytes {s t : State} (hs : 6 ≤ s.rx.count.toNat) (ht : 6 ≤ t.rx.count.toNat)
    (hb : ∀ k, k < 6 → Memory.read s.rx.buf k = Memory.read t.rx.buf k) (hchk : s.cfg.getLsbD 0 = t.cfg.getLsbD 0)
    (hvar : s.variant = t.variant) : interpret s = interpret t := by
  simp only [interpret_of_full hs, interpret_of_full ht, FailsComplement, HasSentinel, capturedByte, hchk, hvar,
    hb 0 (by decide), hb 1 (by decide), hb 2 (by decide), hb 3 (by decide), hb 4 (by decide), hb 5 (by decide)]

/-! ## The results of RX_END -/

/-- RX_END writes the command of the capture as it leaves it, under the configuration it leaves alone. -/
theorem exec_rxEnd_results (d : Word) (s : State) : ∃ t, exec (.rxEnd d) s = .next t ∧
    t.cfg = s.cfg ∧ t.variant = s.variant ∧
    t.result = resultWord (interpret t) ∧ t.resultRaw = resultRawWord (interpret t) :=
  ⟨_, exec_rxEnd d s, rfl, rfl, congrArg resultWord (interpret_congr rfl rfl rfl rfl),
    congrArg resultRawWord (interpret_congr rfl rfl rfl rfl)⟩

/-- KIND 7 is the code of SETTINGS alone (10_state.md R40). -/
theorem exists_eq_settings_of_kind {c : Command} (h : (resultWord c).extractLsb' 0 3 = 7) : ∃ x, c = .settings x := by
  cases c with
  | settings x => exact ⟨x, rfl⟩
  | unrecognized reason => cases reason <;> exact absurd h (by decide)
  | noFrame | powerOff | swingAuto | swingManual | swingLeftRight => exact absurd h (by decide)

theorem eq_settingsOf_of_interpret {s : State} {x : Settings} (h : interpret s = .settings x) :
    x = settingsOf s.variant (Memory.read s.rx.buf 2) (Memory.read s.rx.buf 4) := by
  unfold interpret at h
  dsimp only at h
  split_ifs at h
  exact (Command.settings.inj h).symm

/-! ## The fields of SETTINGS -/

section
variable (v : Word) (b2 b4 : Byte)

theorem settingsOf_fanCode : (settingsOf v b2 b4).fanCode.toNat = b2.toNat / 32 := by
  have := b2.isLt
  change (b2.extractLsb' 5 3).toNat = _
  rw [extract_toNat]
  omega

theorem settingsOf_modeCode : (settingsOf v b2 b4).modeCode.toNat = b4.toNat / 4 % 4 := extract_toNat b4 2 2

theorem settingsOf_tempCode : (settingsOf v b2 b4).tempCode.toNat = b4.toNat / 16 := by
  have := b4.isLt
  change (b4.extractLsb' 4 4).toNat = _
  rw [extract_toNat]
  omega

end

theorem resultRawWord_settings_toNat (x : Settings) : (resultRawWord (.settings x)).toNat =
    x.fanCode.toNat + 16 * x.modeCode.toNat + 256 * x.tempCode.toNat := by
  unfold resultRawWord
  simp only [append_toNat]
  simp
  omega

/-- The fan table (42_interpreter.md R161). -/
theorem fanMap_table (v : Word) (code : BitVec 3) :
    ((fanFieldCode (fanMap v code).1).toNat, (fanMap v code).2) =
      if code.toNat = 5 then (0, false) else if code.toNat = 4 then (1, false) else if code.toNat = 2 then (2, false)
      else if code.toNat = 1 then (3, false) else if code.toNat = 0 ∧ v.getLsbD 6 = true then (4, false)
      else (0, true) := by
  unfold fanMap varFan0Fixed
  generalize v.getLsbD 6 = fixed
  revert code fixed
  decide

/-- The mode table (R162). -/
theorem modeMap_table (code : BitVec 2) : (modeFieldCode (modeMap code)).toNat =
    if code.toNat = 2 then 0 else if code.toNat = 0 then 1 else if code.toNat = 1 then 2 else 3 := by
  revert code
  decide

/-- The temperature table (R163): degrees for codes 0 to 13, and the two codes that TEMP_EXT_EN gives a meaning. -/
theorem tempMap_table (v : Word) (code : BitVec 4) :
    (code.toNat < 14 → (tempMap v code).1 = true ∧ (tempMap v code).2.1 = false ∧
      [17, 18, 20, 19, 24, 23, 21, 22, 28, 27, 29, 30, 25, 26][code.toNat]? = some (tempMap v code).2.2.toNat) ∧
    (14 ≤ code.toNat → v.getLsbD 5 = false →
      (tempMap v code).1 = false ∧ (tempMap v code).2.1 = false ∧ (tempMap v code).2.2.toNat = 0) ∧
    (code.toNat = 14 → v.getLsbD 5 = true →
      (tempMap v code).1 = true ∧ (tempMap v code).2.1 = true ∧ (tempMap v code).2.2.toNat = 31) ∧
    (code.toNat = 15 → v.getLsbD 5 = true →
      (tempMap v code).1 = true ∧ (tempMap v code).2.1 = false ∧ (tempMap v code).2.2.toNat = 16) := by
  unfold tempMap varTempExt
  generalize v.getLsbD 5 = extended
  revert code extended
  decide

end Sys2Proof.Machine

open Sys2Proof Sys2Proof.Machine

/-- Settles O18: the interpreter's tests in their order, on the capture that RX_END leaves. -/
theorem rxEndResultPrecedence : Obligations.RxEndResultPrecedence := by
  intro d s
  obtain ⟨t, hrun, hcfg, hvar, hres, hraw⟩ := exec_rxEnd_results d s
  refine ⟨t, hrun, ?_⟩
  rw [← hcfg, ← hvar, hres, hraw]
  refine ⟨?noFrame, ?short, ?complement, ?powerOff, ?swingAuto, ?swingManual, ?swingLeftRight, ?other, ?settings⟩
  case noFrame =>
    intro hn
    rw [interpret_of_noByte hn]
    exact ⟨rfl, rfl⟩
  case short =>
    intro hn
    rw [interpret_of_short hn]
    exact ⟨rfl, rfl⟩
  all_goals
    intro hn
    rw [interpret_of_full hn]
  case complement =>
    intro h0
    rw [if_pos h0]
    exact ⟨rfl, rfl⟩
  case powerOff =>
    intro h0 h1
    rw [if_neg h0, if_pos h1]
    exact ⟨rfl, rfl⟩
  case swingAuto =>
    intro h0 h1 h2
    rw [if_neg h0, if_neg h1, if_pos h2]
    exact ⟨rfl, rfl⟩
  case swingManual =>
    intro h0 h1 h2 h3
    rw [if_neg h0, if_neg h1, if_neg h2, if_pos h3]
    exact ⟨rfl, rfl⟩
  case swingLeftRight =>
    intro h0 h1 h2 h3 h4
    rw [if_neg h0, if_neg h1, if_neg h2, if_neg h3, if_pos h4]
    exact ⟨rfl, rfl⟩
  case other =>
    intro h0 h1 h2 h3 h4 h5
    rw [if_neg h0, if_neg h1, if_neg h2, if_neg h3, if_neg h4, if_pos h5]
    exact ⟨rfl, rfl⟩
  case settings =>
    intro h0 h1 h2 h3 h4 h5
    rw [if_neg h0, if_neg h1, if_neg h2, if_neg h3, if_neg h4, if_neg h5]
    exact (settingsWord_fields _).1

/-- Settles O19: KIND 7 says that the command is the settings of bytes 2 and 4; its fields are read back from the layout
and looked up in the tables. -/
theorem settingsFields : Obligations.SettingsFields := by
  intro d s
  obtain ⟨t, hrun, -, hvar, hres, hraw⟩ := exec_rxEnd_results d s
  refine ⟨t, hrun, ?_⟩
  rw [← hvar, hres, hraw]
  intro hkind
  obtain ⟨x, hx⟩ := exists_eq_settings_of_kind hkind
  have hof := eq_settingsOf_of_interpret hx
  rw [hx]
  obtain ⟨-, -, hfan, hmode, htemp, hdefaulted, hvalid, hsentinel⟩ := settingsWord_fields x
  simp only [resultWord, hfan, hmode, htemp, hdefaulted, hvalid, hsentinel, resultRawWord_settings_toNat]
  rw [← settingsOf_fanCode t.variant _ (Memory.read t.rx.buf 4),
    ← settingsOf_modeCode t.variant (Memory.read t.rx.buf 2),
    ← settingsOf_tempCode t.variant (Memory.read t.rx.buf 2), ← hof]
  subst hof
  exact ⟨rfl, settingsWord_reserved _, fanMap_table .., modeMap_table _, tempMap_table ..⟩

/-- Settles O20: the precedence (O18) where PWROFF_EN is set and bytes 2 and 4 are the PowerOff sentinel. -/
theorem powerOffProperty : Obligations.PowerOffProperty := by
  intro d s hen
  obtain ⟨t, hrun, -, -, hcomplement, hpowerOff, -⟩ := rxEndResultPrecedence d s
  refine ⟨t, hrun, ?_⟩
  intro b hn h2 h4
  have hsentinel : s.variant.getLsbD 0 = true ∧ (b 2).toNat = 0x7B ∧ (b 4).toNat = 0xE0 :=
    ⟨hen, congrArg BitVec.toNat h2, congrArg BitVec.toNat h4⟩
  -- The complements of the two sentinel bytes are 84 and 1F.
  have hcmpl : (b 1).toNat = 255 - (b 0).toNat ∧ (b 3).toNat = 255 - (b 2).toNat ∧ (b 5).toNat = 255 - (b 4).toNat ↔
      b 1 = ~~~(b 0) ∧ b 3 = 0x84 ∧ b 5 = 0x1F := by
    rw [h2, h4, ← not8_toNat, ← BitVec.toNat_inj, ← BitVec.toNat_inj, ← BitVec.toNat_inj]
    rfl
  refine ⟨?unchecked, ?held, ?failed⟩
  case unchecked =>
    intro hoff
    exact (hpowerOff hn (fun hm => absurd (hoff.symm.trans hm.1) Bool.false_ne_true) hsentinel).1
  case held =>
    intro _ h1 h3 h5
    exact (hpowerOff hn (fun hm => hm.2 (hcmpl.mpr ⟨h1, h3, h5⟩)) hsentinel).1
  case failed =>
    intro hon hbad
    have hfails : ¬(b 1 = ~~~(b 0) ∧ b 3 = 0x84 ∧ b 5 = 0x1F) := by simpa only [not_and_or] using hbad
    exact (hcomplement hn ⟨hon, mt hcmpl.mp hfails⟩).1

/-- Settles O21: the interpreter's equation from six bytes on names bytes 0 to 5, CHK_CMPL and VARIANT only. -/
theorem decodeReadsOnlySixBytes : Obligations.DecodeReadsOnlySixBytes := by
  intro d s s' hchk hvar
  obtain ⟨t, hrun, tcfg, tvar, hres, hraw⟩ := exec_rxEnd_results d s
  obtain ⟨t', hrun', tcfg', tvar', hres', hraw'⟩ := exec_rxEnd_results d s'
  refine ⟨t, t', hrun, hrun', fun hn hn' hb => ?_⟩
  have hcommand : interpret t' = interpret t :=
    interpret_congr_sixBytes hn' hn hb (by rw [tcfg, tcfg', hchk]) (by rw [tvar, tvar', hvar])
  rw [hres, hraw, hres', hraw', hcommand]
  exact ⟨rfl, rfl⟩

end

section
/-! The transmit operations (43_builder.md R189 to R197): what an operation raises, a DONE by the sequencer's next
position, and what a running transmission keeps. -/

namespace Sys2Proof.Machine

/-! ## What an operation raises -/

/-- `ErrCause` lists the causes in the order of their ERR bits (60_exceptions.md R232). -/
theorem errBit_getLsbD (c : ErrCause) (k : Nat) : (errBit c).getLsbD k = (k == c.ctorIdx) := by
  have hbit : errBit c = BitVec.twoPow 32 c.ctorIdx := by cases c <;> rfl
  have hlt : c.ctorIdx < 32 := by cases c <;> decide
  rw [hbit, BitVec.getLsbD_twoPow, decide_eq_true hlt, Bool.true_and]
  exact decide_eq_decide.mpr eq_comm

theorem intBit_txDone_getLsbD (k : Nat) : (intBit .txDone).getLsbD k = (k == 1) := by
  rw [show intBit .txDone = BitVec.twoPow 32 1 from rfl, BitVec.getLsbD_twoPow]
  exact decide_eq_decide.mpr eq_comm

/-- An error sets the bit of its cause and INT_RAW.ERR, bit by bit (60_exceptions.md R230). -/
theorem raiseErr_bits (c : ErrCause) (s : State) :
    (∀ k, (raiseErr c s).err.getLsbD k = (s.err.getLsbD k || k == c.ctorIdx)) ∧
      ∀ k, (raiseErr c s).intRaw.getLsbD k = (s.intRaw.getLsbD k || k == 2) := by
  constructor <;> intro k
  · rw [raiseErr_err, BitVec.getLsbD_or, errBit_getLsbD]
  · rw [raiseErr_intRaw, BitVec.getLsbD_or, intBit_err_getLsbD]

/-! ## DONE -/

theorem doneTx_of_some {t : TxState} (hb : t.busy = true) {f : BitVec 2} {n : BitVec 6} (h : nextPos t = some (f, n)) :
    doneTx t = presentAt f n { t with pairs := t.pairs + 1 } := by
  rw [doneTx, if_pos hb, h]

theorem doneTx_of_none {t : TxState} (hb : t.busy = true) (h : nextPos t = none) :
    doneTx t = idleTx { t with pairs := t.pairs + 1, frame := 0, slot := 0 } := by
  rw [doneTx, if_pos hb, h]

/-- A DONE that presents a next word raises nothing. -/
theorem exec_txDone_of_some {s : State} (hb : s.tx.busy = true) {f : BitVec 2} {n : BitVec 6}
    (h : nextPos s.tx = some (f, n)) :
    exec .txDone s = .next { s with tx := presentAt f n { s.tx with pairs := s.tx.pairs + 1 } } := by
  simp [exec, execTxDone, hb, advanceTx, h]

/-- A DONE that ends the sequence raises TX_DONE. -/
theorem exec_txDone_of_none {s : State} (hb : s.tx.busy = true) (h : nextPos s.tx = none) :
    exec .txDone s = .next (raiseEvent .txDone
      { s with tx := idleTx { s.tx with pairs := s.tx.pairs + 1, frame := 0, slot := 0 } }) := by
  simp [exec, execTxDone, hb, advanceTx, h]

/-! ## A running transmission -/

/-- While busy only a response changes the transmit path: TX_START is dropped, and no other operation reaches it. -/
theorem exec_tx_unchanged_of_busy {i : Instr} {s t : State} (hb : s.tx.busy = true) (hdone : i ≠ .txDone)
    (hfail : i ≠ .txFail) (h : exec i s = .next t) : t.tx = s.tx := by
  cases i with
  | txDone => exact absurd rfl hdone
  | txFail => exact absurd rfl hfail
  | cmdTxStart c b a ign => rw [exec_txStart_busy c b a ign hb] at h; cases h; rfl
  | _ => exact exec_tx_unchanged rfl h

end Sys2Proof.Machine

open Sys2Proof Sys2Proof.Machine

/-- Settles O28: the fields of the snapshot are those of the registers, as numbers. -/
theorem txStartAccepted : Obligations.TxStartAccepted := by
  intro c b a ign s hidle
  refine ⟨_, exec_txStart_idle c b a ign hidle, rfl, rfl, rfl, rfl, rfl, ⟨lowDur_toNat _, highDur_toNat _⟩,
    ⟨lowDur_toNat _, highDur_toNat _⟩, ⟨lowDur_toNat _, highDur_toNat _⟩, ⟨lowDur_toNat _, highDur_toNat _⟩,
    cfgRepeat_toNat _, rfl, fun k hk => ?_, (byteOf_toNat s.txTrl1 0).trans (by omega), byteOf_toNat s.txTrl1 1,
    rfl, rfl, rfl, rfl, wordOfDurPair_toNat _⟩
  interval_cases k
  · exact byteOf_toNat s.txTrl0 0
  · exact byteOf_toNat s.txTrl0 1
  · exact byteOf_toNat s.txTrl0 2
  · exact byteOf_toNat s.txTrl0 3

/-- Settles O29: the command raises TX_BUSY_START, bit 1 of ERR. -/
theorem txStartWhileBusyDropped : Obligations.TxStartWhileBusyDropped := fun c b a ign s hbusy =>
  ⟨_, exec_txStart_busy c b a ign hbusy, rfl, raiseErr_bits .txBusyStart s⟩

/-- Settles O30: the illegal command raises ILL_CMD, bit 0 of ERR. -/
theorem commandsWithoutEffect : Obligations.CommandsWithoutEffect :=
  ⟨fun _ _ => rfl, fun _ _ _ => rfl, fun _ _ s => ⟨raiseErr .illCmd s, rfl, rfl, raiseErr_bits .illCmd s⟩⟩

/-- Settles O31: the three cases are those of the sequencer's next position. -/
theorem txDoneAdvances : Obligations.TxDoneAdvances := by
  intro s hbusy
  by_cases hslot : s.tx.slot.toNat < 49
  case pos =>
    have hn : (s.tx.slot + 1).toNat = s.tx.slot.toNat + 1 := toNat_succ (by omega)
    refine ⟨_, exec_txDone_of_some hbusy (nextPos_more hslot), rfl, rfl, rfl, rfl, fun _ => ?_, fun h => ?_,
      fun h => ?_⟩
    · exact ⟨hbusy, rfl, rfl, hn, by rw [presentAt_word, hn]; exact pairWord_congr rfl rfl _ _, rfl⟩
    all_goals omega
  case neg =>
    have hlast : 49 ≤ s.tx.slot.toNat := not_lt.mp hslot
    by_cases hframe : s.tx.frame.toNat + 1 < nframes s.tx.snap
    case pos =>
      have hn : (s.tx.frame + 1).toNat = s.tx.frame.toNat + 1 :=
        toNat_succ (hframe.trans_le (nframes_le s.tx.snap))
      refine ⟨_, exec_txDone_of_some hbusy (nextPos_frame hlast hframe), rfl, rfl, rfl, rfl, fun h => ?_, fun _ _ => ?_,
        fun _ h => ?_⟩
      · omega
      · exact ⟨hbusy, rfl, hn, rfl, by rw [presentAt_word, hn]; exact pairWord_congr rfl rfl _ _, rfl⟩
      · exact absurd hframe (not_lt.mpr h)
    case neg =>
      refine ⟨_, exec_txDone_of_none hbusy (nextPos_end hlast (not_lt.mp hframe)), rfl, rfl, rfl, rfl, fun h => ?_,
        fun _ h => ?_, fun _ _ => ⟨rfl, rfl, rfl, rfl, rfl, fun k => ?_⟩⟩
      · omega
      · exact absurd h hframe
      · rw [raiseEvent_intRaw, BitVec.getLsbD_or, intBit_txDone_getLsbD]

/-- Settles O33: the failure raises TX_FAIL, bit 2 of ERR, on the idle transmit path. -/
theorem txFailEndsSequence : Obligations.TxFailEndsSequence := by
  intro s hbusy
  have hrun : exec .txFail s = .next (failTx s) := by simp [exec, execTxFail, hbusy]
  exact ⟨_, hrun, rfl, raiseErr_bits .txFail _⟩

/-- Settles O34: either response raises TX_SPURIOUS, bit 5 of ERR. -/
theorem responseWhileIdleIsSpurious : Obligations.ResponseWhileIdleIsSpurious := by
  intro i s hi hidle
  have hrun : exec i s = .next (raiseErr .txSpurious s) := by
    rcases hi with rfl | rfl
    · simp [exec, execTxDone, hidle]
    · simp [exec, execTxFail, hidle]
  exact ⟨_, hrun, rfl, raiseErr_bits .txSpurious s⟩

/-- Settles O36: every operation answers a next state, and while busy it leaves the transmit path. -/
theorem noCancellation : Obligations.NoCancellation := by
  intro i s hbusy hdone hfail
  obtain ⟨t, ht, -⟩ := exec_inputs i s
  exact ⟨t, ht, exec_tx_unchanged_of_busy hbusy hdone hfail ht⟩

end

section
/-! A frame as the sequencer emits it (43_builder.md R181 to R186): its 50 slots are a Header, the 48 bits of its six
bytes, bit 7 first, and a Stop; and a byte with its complement has as many ones as zeros (R199). -/

namespace Sys2Proof.Machine

/-! ## Ranges in blocks -/

/-- `m * n` indices are `n` blocks of `m`. -/
theorem map_range_mul {α : Type} (m n : Nat) (g : Nat → α) :
    (List.range (m * n)).map g = (List.range n).flatMap fun q => (List.range m).map fun j => g (m * q + j) := by
  induction n with
  | zero => rfl
  | succ n ih =>
    rw [Nat.mul_succ, List.range_add, List.map_append, ih, List.range_succ, List.flatMap_append, List.map_map,
      List.flatMap_singleton]
    rfl

/-! ## The slots of a frame -/

/-- The bytes of a frame, in order. -/
def frameByteList (x : TxState) (f : Nat) : List Byte := (List.range 6).map fun k => (frameBytes x f).getD k 0

@[simp] theorem frameByteList_length (x : TxState) (f : Nat) : (frameByteList x f).length = 6 := rfl

/-- A repetition's bytes: the latched triple, each byte with its complement (R181). -/
theorem frameByteList_repetition {x : TxState} {f : Nat} (h : f < x.snap.reps.toNat) : frameByteList x f =
    [x.latch.a, not8 x.latch.a, x.latch.b, not8 x.latch.b, x.latch.c, not8 x.latch.c] := by
  rw [frameByteList, frameBytes, if_pos h]
  rfl

/-- The trailer's bytes, as stored (R183). -/
theorem frameByteList_trailer {x : TxState} {f : Nat} (h : x.snap.reps.toNat ≤ f) :
    frameByteList x f = [0, 1, 2, 3, 4, 5].map fun k => x.snap.trl.getD k 0 := by
  rw [frameByteList, frameBytes, if_neg (Nat.not_lt.mpr h)]
  rfl

theorem frameByteList_getD (x : TxState) (f i : Nat) : (frameByteList x f).getD i 0 = (frameBytes x f).getD i 0 := by
  by_cases hi : i < 6
  · rw [List.getD_eq_getElem _ _ hi]
    simp [frameByteList]
  · rw [List.getD_eq_default _ _ (not_lt.mp hi)]
    simp [Vector.getD, hi]

/-- The bits of a frame, in the order of its slots 1 to 48. -/
def frameBits (x : TxState) (f : Nat) : List Bool := (frameByteList x f).flatMap byteBits

/-- Slot `k + 1` carries bit `k` of the frame (R184). -/
theorem map_slotBit (x : TxState) (f : Nat) : (List.range 48).map (fun k => slotBit x f (k + 1)) = frameBits x f := by
  rw [map_range_mul 8 6, frameBits, frameByteList, List.flatMap_map]
  refine List.flatMap_congr fun q _ => List.map_congr_left fun j hj => ?_
  have hj := List.mem_range.mp hj
  rw [slotBit, show (8 * q + j + 1 - 1) / 8 = q by omega, show (8 * q + j + 1 - 1) % 8 = j by omega]

/-- The durations that carry a bit. -/
def bitPair (n : Snapshot) (b : Bool) : DurPair := if b then n.b1 else n.b0

/-- The 50 slots of a frame (R185). -/
theorem map_slotPair (x : TxState) (f : Nat) :
    (List.range 50).map (slotPair x f) = x.snap.hdr :: (frameBits x f).map (bitPair x.snap) ++ [x.snap.stop] := by
  have hbits : (List.range 48).map (fun k => slotPair x f (k + 1)) = (frameBits x f).map (bitPair x.snap) := by
    rw [← map_slotBit, List.map_map]
    refine List.map_congr_left fun k hk => ?_
    have hk := List.mem_range.mp hk
    rw [slotPair, if_neg (Nat.succ_ne_zero k), if_neg (by unfold Config.stopSlot Config.slotsPerFrame; omega)]
    rfl
  rw [List.range_succ, List.range_succ_eq_map, List.map_append, List.map_cons, List.map_map]
  exact congrArg (fun l => _ :: l ++ _) hbits

/-! ## Ones and zeros -/

theorem byteBits_not8 (v : Byte) : byteBits (not8 v) = (byteBits v).map Bool.not := by
  rw [byteBits, byteBits, List.map_map]
  refine List.map_congr_left fun j _ => ?_
  have hlt : 7 - j < 8 := by omega
  simp [not8, hlt]

/-- A byte and its complement together have eight ones. -/
theorem count_byteBits_not8 (v : Byte) : (byteBits v).count true + (byteBits (not8 v)).count true = 8 := by
  rw [byteBits_not8, ← Bool.not_false, List.count_map_of_injective _ _ Bool.not_injective, Bool.not_false,
    List.count_true_add_count_false]
  rfl

theorem frameBits_length (x : TxState) (f : Nat) : (frameBits x f).length = 48 := by
  rw [← map_slotBit, List.length_map, List.length_range]

/-- A repetition has 24 ones. -/
theorem count_true_frameBits {x : TxState} {f : Nat} (h : f < x.snap.reps.toNat) : (frameBits x f).count true = 24 := by
  have ha := count_byteBits_not8 x.latch.a
  have hb := count_byteBits_not8 x.latch.b
  have hc := count_byteBits_not8 x.latch.c
  simp only [frameBits, frameByteList_repetition h, List.flatMap_cons, List.flatMap_nil, List.count_append,
    List.count_nil]
  omega

/-- A sum over bits counts the ones and the zeros. -/
theorem sum_map_bits (g : Bool → Nat) (bits : List Bool) :
    (bits.map g).sum = bits.count true * g true + bits.count false * g false := by
  induction bits with
  | nil => simp
  | cons b bits ih =>
    rw [List.map_cons, List.sum_cons, ih]
    cases b
    · simp; ring
    · simp; ring

/-- A repetition has 24 zeros. -/
theorem count_false_frameBits {x : TxState} {f : Nat} (h : f < x.snap.reps.toNat) :
    (frameBits x f).count false = 24 := by
  have hlen := List.count_true_add_count_false (frameBits x f)
  rw [count_true_frameBits h, frameBits_length] at hlen
  omega

/-- What a repetition's slots add up to depends on the durations only. -/
theorem sum_slotPair_repetition {x : TxState} {f : Nat} (h : f < x.snap.reps.toNat) (g : DurPair → Nat) :
    ((List.range 50).map fun n => g (slotPair x f n)).sum =
      g x.snap.hdr + 24 * g x.snap.b1 + 24 * g x.snap.b0 + g x.snap.stop := by
  calc ((List.range 50).map fun n => g (slotPair x f n)).sum
    _ = (((List.range 50).map (slotPair x f)).map g).sum := by rw [List.map_map]; rfl
    _ = g x.snap.hdr + ((frameBits x f).map (g ∘ bitPair x.snap)).sum + g x.snap.stop := by
      rw [map_slotPair]; simp [Nat.add_assoc]
    _ = g x.snap.hdr + (24 * g x.snap.b1 + 24 * g x.snap.b0) + g x.snap.stop := by
      rw [sum_map_bits, count_true_frameBits h, count_false_frameBits h]; rfl
    _ = _ := by rw [← Nat.add_assoc]

end Sys2Proof.Machine

open Sys2Proof Sys2Proof.Machine

/-- Settles O32: the frame's bytes as numbers are the statement's list. -/
theorem slotWords : Obligations.SlotWords := by
  intro x f n _
  have hbytes : (frameByteList x f).map BitVec.toNat = if f < x.snap.reps.toNat then
        [x.latch.a.toNat, 255 - x.latch.a.toNat, x.latch.b.toNat, 255 - x.latch.b.toNat, x.latch.c.toNat,
          255 - x.latch.c.toNat]
      else [0, 1, 2, 3, 4, 5].map fun k => (x.snap.trl.getD k 0).toNat := by
    split
    · next h => rw [frameByteList_repetition h]; simp only [List.map_cons, List.map_nil, not8_toNat]
    · next h => rw [frameByteList_trailer (not_lt.mp h)]; rfl
  have hbit : slotBit x f n =
      (((frameByteList x f).map BitVec.toNat).getD ((n - 1) / 8) 0).testBit (7 - (n - 1) % 8) := by
    rw [slotBit, ← frameByteList_getD, ← BitVec.testBit_toNat, show (0 : Nat) = (0 : Byte).toNat from rfl,
      List.getD_map]
  intro bytes one q
  have hq : slotPair x f n = q := by
    rw [slotPair, hbit, hbytes]
    rfl
  rw [pairWord, wordOfDurPair_toNat, hq]

/-- Settles O38: the bits of a repetition are 24 ones and 24 zeros, and the slots' lengths add up by them. -/
theorem balanceLaw : Obligations.BalanceLaw := by
  intro x f hf ticks length
  have hlength : length = ticks x.snap.hdr + 24 * ticks x.snap.b1 + 24 * ticks x.snap.b0 + ticks x.snap.stop :=
    sum_slotPair_repetition hf ticks
  refine ⟨?_, hlength, fun hhdr h0 h1 hstop => ?_⟩
  · rw [← count_true_frameBits hf, ← map_slotBit, List.count, List.countP_map, List.countP_eq_length_filter]
    simp [Function.comp_def]
  · rw [hlength, hhdr, h0, h1, hstop]
    simp only [ticks, durPair, lowDur_toNat, highDur_toNat]
    rfl

end

section
/-! A transmission whole (43_builder.md R187): its transmit path after `k` DONEs is `doneTx` iterated `k` times,
whatever other events but a FAIL fall between them, and while `k` is below 50·nframes it presents the word of slot
(k div 50, k mod 50). -/

namespace Sys2Proof.Machine

/-! ## The transmit path after k DONEs -/

/-- `t` is the transmit path of the sequence that began as `x`, with `k` pairs done and the next one presented. -/
structure Sending (x : TxState) (k : Nat) (t : TxState) : Prop where
  ok : TransmitOk t
  busy : t.busy = true
  latch : t.latch = x.latch
  snap : t.snap = x.snap
  pairs : t.pairs.toNat = k

/-- An accepted TX_START begins a sequence if REPEAT is not 0. -/
theorem sending_startTx (a b c : Byte) {s : State} (hrep : cfgRepeat s.cfg ≠ 0) :
    Sending (startTx a b c s).tx 0 (startTx a b c s).tx where
  ok := by
    have hpos : (cfgRepeat s.cfg).toNat ≠ 0 := fun e => hrep (BitVec.eq_of_toNat_eq e)
    exact transmitOk_presentAt rfl (Nat.zero_le 49) (Nat.add_pos_left (Nat.pos_of_ne_zero hpos) _) hrep rfl
  busy := rfl
  latch := rfl
  snap := rfl
  pairs := rfl

/-- The position is that of the pairs done, as every frame has 50 slots. -/
theorem Sending.position {x t : TxState} {k : Nat} (h : Sending x k t) :
    t.frame.toNat = k / 50 ∧ t.slot.toNat = k % 50 := by
  have hslot := h.ok.slotInFrame
  have hcount := h.ok.pairsCountSlots h.busy
  have hpairs := h.pairs
  omega

/-- The word presented is that of the position. -/
theorem Sending.word {x t : TxState} {k : Nat} (h : Sending x k t) : t.word = pairWord x (k / 50) (k % 50) := by
  obtain ⟨hframe, hslot⟩ := h.position
  rw [h.ok.wordPresented h.busy, hframe, hslot]
  exact pairWord_congr h.latch h.snap _ _

/-- A DONE before the last. -/
theorem Sending.done {x t : TxState} {k : Nat} (h : Sending x k t) (hk : k + 1 < 50 * nframes x.snap) :
    Sending x (k + 1) (doneTx t) := by
  obtain ⟨hframe, hslot⟩ := h.position
  have hpairs := h.pairs
  have hle := nframes_le x.snap
  have hcount : (t.pairs + 1).toNat = k + 1 := by rw [toNat_succ (by omega), hpairs]
  obtain ⟨f, n, hnext⟩ : ∃ f n, nextPos t = some (f, n) := by
    by_cases hmore : t.slot.toNat < 49
    · exact ⟨_, _, nextPos_more hmore⟩
    · exact ⟨_, _, nextPos_frame (not_lt.mp hmore) (by rw [h.snap]; omega)⟩
  have hok := h.ok.doneTx
  rw [doneTx_of_some h.busy hnext] at hok ⊢
  exact ⟨hok, h.busy, h.latch, h.snap, hcount⟩

/-- At the last pair the sequencer has no next position. -/
theorem Sending.nextPos_last {x t : TxState} {k : Nat} (h : Sending x k t) (hk : k + 1 = 50 * nframes x.snap) :
    nextPos t = none := by
  obtain ⟨hframe, hslot⟩ := h.position
  exact nextPos_end (by omega) (by rw [h.snap]; omega)

theorem Sending.iterate {x : TxState} (h : Sending x 0 x) {k : Nat} (hk : k < 50 * nframes x.snap) :
    Sending x k (doneTx^[k] x) := by
  induction k with
  | zero => exact h
  | succ k ih =>
    rw [Function.iterate_succ_apply']
    exact (ih (by omega)).done hk

/-! ## Other events between the DONEs -/

/-- Events without a FAIL act on a running transmit path by their DONEs only. -/
theorem execAll_tx {es : List Instr} {s t : State} (hfail : Instr.txFail ∉ es)
    (hbusy : ∀ j ≤ es.count .txDone, (doneTx^[j] s.tx).busy = true) (h : execAll es s = .next t) :
    t.tx = doneTx^[es.count .txDone] s.tx := by
  induction es generalizing s with
  | nil => cases h; rfl
  | cons i es ih =>
    obtain ⟨hi, hes⟩ := not_or.mp (mt List.mem_cons.mpr hfail)
    obtain ⟨u, hu, -⟩ := exec_inputs i s
    rw [execAll_cons hu] at h
    by_cases hdone : i = .txDone
    · subst hdone
      have hutx : u.tx = doneTx s.tx := by rw [exec_txDone] at hu; cases hu; rfl
      rw [List.count_cons_self] at hbusy ⊢
      rw [Function.iterate_succ_apply, ← hutx]
      refine ih hes (fun j hj => ?_) h
      rw [hutx, ← Function.iterate_succ_apply]
      exact hbusy (j + 1) (by omega)
    · have hutx : u.tx = s.tx := exec_tx_unchanged_of_busy (hbusy 0 (Nat.zero_le _)) hdone (Ne.symm hi) hu
      rw [List.count_cons_of_ne hdone] at hbusy ⊢
      rw [← hutx] at hbusy ⊢
      exact ih hes hbusy h

/-- A sequence with any events between its DONEs but a FAIL. -/
theorem Sending.execAll {x : State} (h : Sending x.tx 0 x.tx) {es : List Instr} (hfail : Instr.txFail ∉ es)
    (hk : es.count .txDone < 50 * nframes x.tx.snap) :
    ∃ t, execAll es x = .next t ∧ Sending x.tx (es.count .txDone) t.tx := by
  obtain ⟨t, ht⟩ := execAll_next es x
  have htx := execAll_tx hfail (fun j hj => (h.iterate (hj.trans_lt hk)).busy) ht
  exact ⟨t, ht, htx ▸ h.iterate hk⟩

/-- The snapshot's number of frames, from CFG (R182). -/
theorem nframes_takeSnapshot (s : State) :
    nframes (takeSnapshot s) = s.cfg.toNat / 2 % 4 + (s.cfg.getLsbD 3).toNat :=
  congrArg (· + _) (cfgRepeat_toNat s.cfg)

end Sys2Proof.Machine

open Sys2Proof Sys2Proof.Machine

/-- Settles O35: the transmit path is that of the DONEs alone, and the last DONE finds no next position. -/
theorem sequenceLaw : Obligations.SequenceLaw := by
  intro c b a ign s hidle hrep n
  have hn : 50 * n = 50 * nframes (startTx a b c s).tx.snap := congrArg (50 * ·) (nframes_takeSnapshot s).symm
  refine ⟨_, exec_txStart_idle c b a ign hidle, fun es hfail hk => ?_⟩
  rw [hn] at hk ⊢
  obtain ⟨t, ht, hsend⟩ := (sending_startTx a b c hrep).execAll hfail hk
  obtain ⟨hframe, hslot⟩ := hsend.position
  refine ⟨t, ht, hsend.busy, hsend.ok.validIsBusy.trans hsend.busy, hframe, hslot, hsend.pairs, hsend.word, ?_⟩
  intro hlast
  have hcount : (t.tx.pairs + 1).toNat = 50 * nframes (startTx a b c s).tx.snap := by
    have hle := nframes_le (startTx a b c s).tx.snap
    rw [toNat_succ (by rw [hsend.pairs]; omega), hsend.pairs, hlast]
  refine ⟨_, exec_txDone_of_none hsend.busy (hsend.nextPos_last hlast), rfl, rfl, rfl, rfl, rfl, hcount, ?_⟩
  rw [raiseEvent_intRaw, BitVec.getLsbD_or, intBit_txDone_getLsbD]
  exact Bool.or_true _

end

section
/-! A transmission fed back (43_builder.md R198): a loopback of `k` turns receives the words of the first `k` positions,
a frame's words are received as its six bytes, and so the capture holds the bytes of every frame. -/

namespace Sys2Proof.Machine

/-! ## The turns of a loopback -/

/-- One turn: the word presented is received, and then its DONE advances the transmit path. -/
theorem execAll_turn (s : State) :
    ∃ e f, execAll [.rxPair (pairOfWord s.tx.word), .txDone] s = .next { s with
      rx := symbolRx (classify s (pairOfWord s.tx.word)) (openRx s.rx), tx := doneTx s.tx, err := e, intRaw := f } :=
  ⟨_, _, (execAll_cons (exec_rxPair _ s) _).trans (execAll_cons (exec_txDone _) [])⟩

/-- As many turns as the transmission stays busy for. -/
theorem loopback_busy_turns (k : Nat) {s : State} (hbusy : ∀ j < k, (doneTx^[j] s.tx).busy = true) :
    ∃ e f, loopback k s = .next { s with
      rx := symbolsRx ((List.range k).map fun j => classify s (pairOfWord (doneTx^[j] s.tx).word)) s.rx
      tx := doneTx^[k] s.tx, err := e, intRaw := f } := by
  induction k generalizing s with
  | zero => exact ⟨s.err, s.intRaw, rfl⟩
  | succ k ih =>
    obtain ⟨e, f, hturn⟩ := execAll_turn s
    rw [loopback_busy k (hbusy 0 (Nat.succ_pos k)) hturn, List.range_succ_eq_map, List.map_cons, List.map_map,
      symbolsRx_cons]
    exact ih fun j hj => hbusy (j + 1) (Nat.succ_lt_succ hj)

/-- The symbols a frame's slots are received as. -/
def frameSymbols (s : State) (x : TxState) (f : Nat) : List Symbol :=
  (List.range 50).map fun j => classify s (pairOfWord (pairWord x f j))

/-- A loopback of all of a sequence's words ends it, and receives them frame by frame. -/
theorem Sending.loopback {s : State} (h : Sending s.tx 0 s.tx) (hn : 0 < nframes s.tx.snap) :
    ∃ y, loopback (50 * nframes s.tx.snap) s = .next y ∧ y.tx.busy = false ∧
      y.rx = symbolsRx ((List.range (nframes s.tx.snap)).flatMap (frameSymbols s s.tx)) s.rx := by
  obtain ⟨k, hk⟩ : ∃ k, 50 * nframes s.tx.snap = k + 1 := ⟨50 * nframes s.tx.snap - 1, by omega⟩
  obtain ⟨e, f, hrun⟩ := loopback_busy_turns (50 * nframes s.tx.snap) fun j hj => (h.iterate hj).busy
  refine ⟨_, hrun, ?_, ?_⟩
  · have hlast := h.iterate (k := k) (by omega)
    simp only [hk, Function.iterate_succ_apply', doneTx_of_none hlast.busy (hlast.nextPos_last hk.symm), idleTx_busy]
  · have hwords : (List.range (50 * nframes s.tx.snap)).map
          (fun j => classify s (pairOfWord (doneTx^[j] s.tx).word)) =
        (List.range (50 * nframes s.tx.snap)).map
          fun j => classify s (pairOfWord (pairWord s.tx (j / 50) (j % 50))) :=
      List.map_congr_left fun j hj => by rw [(h.iterate (List.mem_range.mp hj)).word]
    refine congrArg (symbolsRx · s.rx) (hwords.trans ?_)
    rw [map_range_mul]
    refine List.flatMap_congr fun q _ => List.map_congr_left fun j hj => ?_
    have hj := List.mem_range.mp hj
    rw [show (50 * q + j) / 50 = q by omega, show (50 * q + j) % 50 = j by omega]

/-! ## The bytes received -/

/-- The classification premises of the round-trip law: the receiver takes the emitted bits for what they are, and the
Header and the Stop for no bit (R198). -/
structure Recognized (s : State) (n : Snapshot) : Prop where
  b0 : classify s (pairOfWord (wordOfDurPair n.b0)) = .bit0
  b1 : classify s (pairOfWord (wordOfDurPair n.b1)) = .bit1
  hdr0 : classify s (pairOfWord (wordOfDurPair n.hdr)) ≠ .bit0
  hdr1 : classify s (pairOfWord (wordOfDurPair n.hdr)) ≠ .bit1
  stop0 : classify s (pairOfWord (wordOfDurPair n.stop)) ≠ .bit0
  stop1 : classify s (pairOfWord (wordOfDurPair n.stop)) ≠ .bit1

/-- A recognized frame: the bits of its bytes between two symbols that are no bits. -/
theorem Recognized.frameSymbols_eq {s : State} {x : TxState} (h : Recognized s x.snap) (f : Nat) :
    frameSymbols s x f = classify s (pairOfWord (wordOfDurPair x.snap.hdr)) :: (frameBits x f).map bitSymbol ++
      [classify s (pairOfWord (wordOfDurPair x.snap.stop))] := by
  have hbit : ∀ b, classify s (pairOfWord (wordOfDurPair (bitPair x.snap b))) = bitSymbol b
    | true => h.b1
    | false => h.b0
  calc frameSymbols s x f
    _ = ((List.range 50).map (slotPair x f)).map fun q => classify s (pairOfWord (wordOfDurPair q)) := by
      rw [List.map_map]; rfl
    _ = _ := by
      rw [map_slotPair, List.map_append, List.map_cons, List.map_map]
      exact congrArg (fun l => _ :: l ++ _) (List.map_congr_left fun b _ => hbit b)

/-- A symbol that is no bit adds nothing to an open capture. -/
theorem Captured.noBit {bytes : List Byte} {r : RxState} (h : Captured bytes [] r) {sym : Symbol} (h0 : sym ≠ .bit0)
    (h1 : sym ≠ .bit1) : Captured bytes [] (symbolsRx [sym] r) := by
  rw [symbolsRx_cons, openRx_of_isOpen h.isOpen, (symbolRx_of_not_bit h0 h1 r).1]
  exact h.withLastSym sym

/-- Recognized frames are received as their bytes, while the buffer has room. -/
theorem Recognized.captured {s : State} {x : TxState} (h : Recognized s x.snap) {n : Nat} (hn : n ≤ 5) :
    Captured ((List.range n).flatMap (frameByteList x)) []
      (symbolsRx ((List.range n).flatMap (frameSymbols s x)) openedRx) := by
  induction n with
  | zero => exact captured_openedRx
  | succ n ih =>
    have hbytes := ((ih (by omega)).noBit h.hdr0 h.hdr1).append (vs := frameByteList x n) (by simp; omega)
    rw [List.range_succ, List.flatMap_append, List.flatMap_append, List.flatMap_singleton, List.flatMap_singleton,
      h.frameSymbols_eq, List.cons_append, ← List.singleton_append, symbolsRx_append, symbolsRx_append,
      symbolsRx_append]
    exact hbytes.noBit h.stop0 h.stop1

/-- The six bytes of each frame, read back. -/
theorem Captured.read_frame {x : TxState} {n : Nat} {r : RxState}
    (h : Captured ((List.range n).flatMap (frameByteList x)) [] r) {f : Nat} (hf : f < n) :
    [0, 1, 2, 3, 4, 5].map (fun k => Memory.read r.buf (6 * f + k)) = frameByteList x f := by
  have hbytes : (List.range n).flatMap (frameByteList x) =
      (List.range (6 * n)).map fun i => (frameBytes x (i / 6)).getD (i % 6) 0 := by
    rw [map_range_mul]
    refine List.flatMap_congr fun q _ => List.map_congr_left fun k hk => ?_
    have hk := List.mem_range.mp hk
    rw [show (6 * q + k) / 6 = q by omega, show (6 * q + k) % 6 = k by omega]
  rw [hbytes] at h
  refine List.map_congr_left (l := List.range 6) fun k hk => ?_
  have hk := List.mem_range.mp hk
  rw [h.read _ (by simp; omega), List.getElem_map, List.getElem_range, show (6 * f + k) / 6 = f by omega,
    show (6 * f + k) % 6 = k by omega]

/-- RX_END on whole bytes leaves them, whatever the closed receive path held before. -/
theorem Captured.endRx_symbolsRx {bytes : List Byte} {syms : List Symbol}
    (h : Captured bytes [] (symbolsRx syms openedRx)) {r : RxState} (hclosed : r.isOpen = false) :
    Machine.endRx (symbolsRx syms r) = { symbolsRx syms openedRx with isOpen := false } := by
  rw [Machine.endRx_symbolsRx hclosed, (flushRx_of_empty (BitVec.eq_of_toNat_eq h.nbits)).1]

/-! ## The result -/

/-- A command of at least six bytes whose complements hold is not COMPLEMENT, NO_FRAME or SHORT (R150 to R153). -/
theorem resultWord_interpret_of_complements {s : State} (hn : 6 ≤ s.rx.count.toNat) (h : ¬FailsComplement s) :
    resultWord (interpret s) ≠ 0x16 ∧ resultWord (interpret s) ≠ 0x1 ∧ resultWord (interpret s) ≠ 0xE := by
  have hkind (x : Settings) {w : Word} (hw : w.extractLsb' 0 3 ≠ 7) : resultWord (.settings x) ≠ w := by
    rintro rfl
    exact hw (settingsWord_fields x).1
  rw [interpret_of_full hn, if_neg h]
  repeat' split
  case isFalse => exact ⟨hkind _ (by decide), hkind _ (by decide), hkind _ (by decide)⟩
  all_goals decide

/-- The complement check passes on a repetition's bytes, whatever CHK_CMPL (R153). -/
theorem not_failsComplement_of_read {s : State} {a b c : Byte}
    (h : [0, 1, 2, 3, 4, 5].map (fun k => Memory.read s.rx.buf k) = [a, not8 a, b, not8 b, c, not8 c]) :
    ¬FailsComplement s := by
  obtain ⟨h0, h1, h2, h3, h4, h5⟩ : Memory.read s.rx.buf 0 = a ∧ Memory.read s.rx.buf 1 = not8 a ∧
    Memory.read s.rx.buf 2 = b ∧ Memory.read s.rx.buf 3 = not8 b ∧ Memory.read s.rx.buf 4 = c ∧
    Memory.read s.rx.buf 5 = not8 c := by simpa using h
  simp only [FailsComplement, capturedByte, h0, h1, h2, h3, h4, h5, not8_toNat, and_self, not_true, and_false,
    not_false_iff]

end Sys2Proof.Machine

open Sys2Proof Sys2Proof.Machine

/-- Settles O39: all words of the sequence are fed back, each frame is received as its bytes, and the first one is a
repetition, which passes the complement check. -/
theorem loopbackRoundTrip : Obligations.LoopbackRoundTrip := by
  intro c b a ign d s hidle hclosed hrep sent h0 h1 hhdr0 hhdr1 hstop0 hstop1 reps n
  let x := startTx a b c s
  have hreps : x.tx.snap.reps.toNat = reps := cfgRepeat_toNat s.cfg
  have hn : nframes x.tx.snap = n := nframes_takeSnapshot s
  have hpos : 0 < reps := Nat.pos_of_ne_zero fun e => hrep (BitVec.eq_of_toNat_eq (hreps.trans e))
  have hle : n ≤ 4 := hn ▸ nframes_le x.tx.snap
  have hfull : reps ≤ n := Nat.le_add_right _ _
  obtain ⟨y, hloop, hdone, hyrx⟩ := (sending_startTx a b c hrep).loopback (s := x) (by omega)
  rw [hn] at hloop hyrx
  have hseen : Recognized x x.tx.snap := ⟨h0, h1, hhdr0, hhdr1, hstop0, hstop1⟩
  have hcap := hseen.captured (n := n) (by omega)
  have hend : endRx y.rx = _ := (congrArg endRx hyrx).trans (hcap.endRx_symbolsRx hclosed)
  have hcount : (endRx y.rx).count.toNat = 6 * n := by
    rw [hend, hcap.count, List.length_flatMap]
    simp [Nat.mul_comm]
  have hframe : ∀ f < n, [0, 1, 2, 3, 4, 5].map (fun k => Memory.read (endRx y.rx).buf (6 * f + k)) =
      frameByteList x.tx f := fun f hf => by rw [hend]; exact hcap.read_frame hf
  have hrepetition : ∀ f < reps, [0, 1, 2, 3, 4, 5].map (fun k => Memory.read (endRx y.rx).buf (6 * f + k)) =
      [a, not8 a, b, not8 b, c, not8 c] := fun f hf =>
    (hframe f (by omega)).trans (frameByteList_repetition (by omega))
  refine ⟨x, y, _, exec_txStart_idle c b a ign hidle, hloop, exec_rxEnd d y, ?_, hcount, hrepetition, fun htrl => ?_,
    ?_⟩
  · simp [State.complete, hdone, endRx]
  · have hlast : n = reps + 1 := congrArg (fun e : Bool => reps + e.toNat) htrl
    exact (hframe reps (by omega)).trans (frameByteList_trailer hreps.le)
  · have hfirst := hrepetition 0 hpos
    simp only [Nat.mul_zero, Nat.zero_add] at hfirst
    exact resultWord_interpret_of_complements (hcount ▸ by omega) (not_failsComplement_of_read hfirst)

end

section
/-! The host bus (44_host_bus.md R210 to R229): the command a CMD write selects, the fields a write stores, and what
each register word reads as. -/

namespace Sys2Proof

/-! ## Commands (R227) -/

/-- A write to CMD decodes by the value written. -/
theorem decode_cmdWord (v : Word) : decode (writeWord 12 v) = decodeCmd v := decode_writeWord 12 v

/-- The OP of a command is WDATA[3:0] (30_encoding.md R89). -/
theorem cmdOp_toNat (v : Word) : (v.extractLsb' 0 4).toNat = v.toNat % 16 :=
  (extract_toNat v 0 4).trans (by omega)

theorem decodeCmd_of_op_zero {v : Word} (h : v.toNat % 16 = 0) : decodeCmd v = .cmdNop (v.extractLsb' 4 28) := by
  rw [decodeCmd, cmdOp_toNat, h]
  rfl

theorem decodeCmd_of_op_one {v : Word} (h : v.toNat % 16 = 1) : decodeCmd v =
    .cmdTxStart (v.extractLsb' 24 8) (v.extractLsb' 16 8) (v.extractLsb' 8 8) (v.extractLsb' 4 4) := by
  rw [decodeCmd, cmdOp_toNat, h]
  rfl

theorem decodeCmd_of_two_le_op {v : Word} (h : 2 ≤ v.toNat % 16) :
    decodeCmd v = .cmdIllegal (v.extractLsb' 4 28) (v.extractLsb' 0 4) := by
  have hill := decodeCmd_illegal (v.extractLsb' 4 28) (h.trans_eq (cmdOp_toNat v).symm)
  rwa [ignOpWord_extract] at hill

namespace Machine

/-! ## The fields of CFG after a write (R212) -/

theorem cfgChkCmpl_cfgAfterWrite (c v : Word) : cfgChkCmpl (cfgAfterWrite c v) = v.getLsbD 0 := by
  have hw := cfgAfterWrite_toNat c v
  rw [cfgChkCmpl, Bool.eq_iff_iff, getLsbD_eq_true, getLsbD_eq_true]
  split at hw <;> omega

theorem cfgTrlEn_cfgAfterWrite (c v : Word) : cfgTrlEn (cfgAfterWrite c v) = v.getLsbD 3 := by
  have hw := cfgAfterWrite_toNat c v
  rw [cfgTrlEn, Bool.eq_iff_iff, getLsbD_eq_true, getLsbD_eq_true]
  split at hw <;> omega

theorem cfgRepeat_cfgAfterWrite_of_ne {v : Word} (h : v.toNat / 2 % 4 ≠ 0) (c : Word) :
    (cfgRepeat (cfgAfterWrite c v)).toNat = v.toNat / 2 % 4 := by
  have hw := cfgAfterWrite_toNat c v
  rw [if_pos h] at hw
  rw [cfgRepeat_toNat]
  omega

theorem cfgRepeat_cfgAfterWrite_of_eq {v : Word} (h : v.toNat / 2 % 4 = 0) (c : Word) :
    cfgRepeat (cfgAfterWrite c v) = cfgRepeat c := by
  have hw := cfgAfterWrite_toNat c v
  rw [if_neg (not_not.mpr h)] at hw
  apply BitVec.eq_of_toNat_eq
  rw [cfgRepeat_toNat, cfgRepeat_toNat]
  omega

/-- CFG has four bits, so the reserved ones are 0 (10_state.md R23). -/
theorem cfgAfterWrite_getLsbD_reserved (c v : Word) {k : Nat} (hk : 4 ≤ k) :
    (cfgAfterWrite c v).getLsbD k = false := by
  have hw := cfgAfterWrite_toNat c v
  have hlt : (cfgAfterWrite c v).toNat < 2 ^ 4 := by split at hw <;> omega
  exact Nat.testBit_lt_two_pow (hlt.trans_le (Nat.pow_le_pow_right two_pos hk))

/-! ## Reads (R210) -/

theorem exec_busRead (a : WAddr) (d : Word) (s : State) :
    exec (.busRead a d) s = .next { s with rdata := readWord s a } := rfl

/-- A read sees the address's number only. -/
theorem readWord_of_toNat {a : WAddr} {n : Nat} (h : a.toNat = n) (s : State) :
    readWord s a = readWord s (BitVec.ofNat 6 n) := by
  rw [← h, BitVec.ofNat_toNat, BitVec.setWidth_eq]

/-- The words behind TX_LATCH that hold no RX bytes are reserved and read as 0. -/
theorem readWord_reserved {a : WAddr} (h : 22 ≤ a.toNat ∧ a.toNat ≤ 31 ∨ 40 ≤ a.toNat) (s : State) :
    readWord s a = 0 := by
  have hnoBytes : ¬(32 ≤ a.toNat ∧ a.toNat ≤ 39) := by omega
  unfold readWord
  split
  case h_23 => exact if_neg hnoBytes
  all_goals omega

theorem readWord_rxBytes {a : WAddr} {i : Nat} (hi : i < 8) (h : a.toNat = 32 + i) (s : State) :
    readWord s a = rxBytesWord s.rx.buf i := by
  have hbytes : 32 ≤ a.toNat ∧ a.toNat ≤ 39 := by omega
  unfold readWord
  split
  case h_23 => rw [if_pos hbytes, h, Nat.add_sub_cancel_left]
  all_goals omega

/-- A write and then a read of its register: the read returns the register as the write left it (R229). -/
theorem execAll_write_read {i : Instr} {s t : State} (hwrite : exec i s = .next t) {a : WAddr} {w : Word}
    (hread : readWord t a = w) (d : Word) : ∃ u, execAll [i, .busRead a d] s = .next u ∧ u.rdata = w :=
  ⟨_, (execAll_cons hwrite _).trans (execAll_cons (exec_busRead a d t) []), hread⟩

/-! ## The words built of fields (10_state.md R36, R43 to R45) -/

theorem statusWord_toNat (s : State) : (statusWord s).toNat = s.rx.shift.toNat * 256 +
    (symbolCode s.rx.lastSym).toNat * 32 + s.rx.nbits.toNat * 4 + s.tx.busy.toNat * 2 + s.rx.isOpen.toNat := by
  unfold statusWord
  simp only [append_toNat, BitVec.toNat_ofBool, BitVec.ofNat_eq_ofNat, BitVec.toNat_ofNat]
  omega

theorem txPosWord_toNat (t : TxState) :
    (txPosWord t).toNat = t.pairs.toNat * 256 + t.frame.toNat * 64 + t.slot.toNat := by
  unfold txPosWord
  simp only [append_toNat, BitVec.ofNat_eq_ofNat, BitVec.toNat_ofNat]
  omega

theorem txLatchWord_toNat (t : TxState) :
    (txLatchWord t).toNat = t.latch.c.toNat * 65536 + t.latch.b.toNat * 256 + t.latch.a.toNat := by
  simp only [txLatchWord, wordOfBytes_toNat, BitVec.ofNat_eq_ofNat, BitVec.toNat_ofNat]
  omega

/-- The bytes of a register are the four it is made of, the lowest first (20_memory.md R64). -/
theorem byteOf_wordOfBytes (b : Nat → Byte) {j : Nat} (hj : j < 4) :
    byteOf (wordOfBytes (b 0) (b 1) (b 2) (b 3)) j = b j := by
  have h0 := (b 0).isLt
  have h1 := (b 1).isLt
  have h2 := (b 2).isLt
  have h3 := (b 3).isLt
  apply BitVec.eq_of_toNat_eq
  rw [byteOf_toNat, wordOfBytes_toNat]
  interval_cases j <;> omega

theorem byteOf_rxBytesWord (m : Memory) (i : Nat) {j : Nat} (hj : j < 4) :
    byteOf (rxBytesWord m i) j = Memory.read m (4 * i + j) :=
  byteOf_wordOfBytes (fun j => Memory.read m (4 * i + j)) hj

end Machine

end Sys2Proof

open Sys2Proof Sys2Proof.Machine

/-- Settles O5: the clauses are the three arms of the command decoder, and each operand is a field of the value. -/
theorem cmdWriteDispatch : Obligations.CmdWriteDispatch := by
  intro v
  rw [decode_cmdWord]
  refine ⟨fun hnop => ⟨_, decodeCmd_of_op_zero hnop⟩,
    fun hstart => ⟨_, _, _, _, decodeCmd_of_op_one hstart, extract_toNat v 8 8, extract_toNat v 16 8, ?_⟩,
    fun hill => ⟨_, _, decodeCmd_of_two_le_op hill, cmdOp_toNat v⟩⟩
  have := v.isLt
  rw [extract_toNat]
  omega

/-- Settles O40: a read answers readWord, which is taken address by address; the packed words are sums of fields. -/
theorem busReadMap : Obligations.BusReadMap := by
  intro a d s
  have hread {n : Nat} (ha : a.toNat = n) := readWord_of_toNat ha s
  have htoNat {n : Nat} (ha : a.toNat = n) := congrArg BitVec.toNat (hread ha)
  refine ⟨_, exec_busRead a d s, fun e he ha => (hread ha).trans ?_, fun ha => (htoNat ha).trans (statusWord_toNat s),
    fun ha => (htoNat ha).trans ?_, fun ha => (htoNat ha).trans (txPosWord_toNat s.tx),
    fun ha => (htoNat ha).trans (txLatchWord_toNat s.tx), fun ha => readWord_reserved (.inl ha) s,
    fun i hi ha j hj => ?_, fun ha => readWord_reserved (.inr ha) s⟩
  · fin_cases he <;> rfl
  · exact BitVec.toNat_setWidth_of_le (by decide)
  · exact (congrArg (byteOf · j) (readWord_rxBytes hi ha s)).trans (byteOf_rxBytesWord s.rx.buf i hj)

/-- Settles O41: a read stores to rdata only, and a second one leaves the state it answers. -/
theorem readsHaveNoSideEffect : Obligations.ReadsHaveNoSideEffect := fun a d d' s =>
  ⟨_, exec_busRead a d s, rfl, exec_registerAccess_again rfl (exec_busRead a d' s)⟩

/-- Settles O43: WR_CFG field by field; every other write is its own equation. -/
theorem registerWriteResults : Obligations.RegisterWriteResults := fun v s =>
  ⟨⟨_, rfl, rfl, cfgChkCmpl_cfgAfterWrite s.cfg v, cfgTrlEn_cfgAfterWrite s.cfg v,
      fun h => cfgRepeat_cfgAfterWrite_of_ne h s.cfg, fun h => cfgRepeat_cfgAfterWrite_of_eq h s.cfg,
      fun _ hk => cfgAfterWrite_getLsbD_reserved s.cfg v hk⟩,
    rfl, rfl, rfl, rfl, rfl, rfl, rfl, rfl, rfl, rfl, rfl, rfl, rfl, rfl⟩

/-- Settles O42: each write leaves its register as `registerWriteResults` says, and the read returns that register. -/
theorem writeThenReadLaw : Obligations.WriteThenReadLaw := by
  intro v d s
  obtain ⟨-, hvariant, hhdr, hb0, hb1, hstop, htxHdr, htxB0, htxB1, htxStop, htrl0, htrl1, herr, hraw, hena⟩ :=
    registerWriteResults v s
  refine ⟨?_, ?_, execAll_write_read herr rfl d, execAll_write_read hraw rfl d⟩
  · simp only [List.forall_mem_cons]
    exact ⟨execAll_write_read hvariant rfl d, execAll_write_read hhdr rfl d, execAll_write_read hb0 rfl d,
      execAll_write_read hb1 rfl d, execAll_write_read hstop rfl d, execAll_write_read htxHdr rfl d,
      execAll_write_read htxB0 rfl d, execAll_write_read htxB1 rfl d, execAll_write_read htxStop rfl d,
      execAll_write_read htrl0 BitVec.and_allOnes.symm d, execAll_write_read htrl1 rfl d, execAll_write_read hena rfl d,
      nofun⟩
  · obtain ⟨t, ht, hcfg⟩ := execAll_write_read (i := .wrCfg v) (s := s) rfl (a := 0) rfl d
    exact ⟨t, ht, hcfg ▸ cfgAfterWrite_toNat s.cfg v⟩

end

section
/-! A clock edge whole (60_exceptions.md R237): taken event by event it is its list of events run in order, and what the
word of each interface leaves of the two paths. -/

namespace Sys2Proof.Machine

/-! ## The events of an edge, one by one -/

theorem events_eq_nil_iff (c : Cycle) : c.events = [] ↔ c.bus = none ∧ c.rx = none ∧ c.resp = none := by
  simp [Cycle.events]

/-- The event taken is the first of the edge's events, and the edge keeps the others. -/
theorem events_of_takeEvent_some {c c' : Cycle} {w : PortWord} (h : takeEvent c = some (w, c')) :
    c.events = decode w :: c'.events ∧ c'.rstN = c.rstN := by
  obtain ⟨r, b, x, t⟩ := c
  cases b with
  | some w => cases h; exact ⟨rfl, rfl⟩
  | none =>
    cases x with
    | some w => cases h; exact ⟨rfl, rfl⟩
    | none =>
      cases t with
      | some w => cases h; exact ⟨rfl, rfl⟩
      | none => cases h

theorem takeEvent_eq_none_iff (c : Cycle) : takeEvent c = none ↔ c.events = [] := by
  rw [events_eq_nil_iff]
  obtain ⟨r, b, x, t⟩ := c
  cases b <;> cases x <;> cases t <;> simp [takeEvent]

/-- An edge stays pending just while it holds another event. -/
theorem afterEvent_eq (c : Cycle) (rest : List Cycle) :
    afterEvent c rest = if c.events = [] then rest else c :: rest := by
  simp only [afterEvent, events_eq_nil_iff, Bool.and_eq_true, Option.isNone_iff_eq_none, and_assoc]

/-- An operation does the same whatever is pending. -/
theorem exec_withInputs {i : Instr} {s t : State} (h : exec i s = .next t) (x : List Cycle) :
    exec i { s with inputs := x } = .next { t with inputs := x } := by
  obtain ⟨u, hu, -, hx⟩ := exec_inputs i s
  cases hu.symm.trans h
  exact hx x

/-- As many steps as an edge has events run these events in their order, and the edge is gone. -/
theorem core_run_events {s : State} {c : Cycle} {rest : List Cycle} (h : s.inputs = c :: rest) (hr : c.rstN = true)
    (hne : c.events ≠ []) :
    Sys2Proof.core.run c.events.length s = execAll c.events { s with inputs := rest } := by
  generalize he : c.events = es at hne
  induction es generalizing c s with
  | nil => exact absurd rfl hne
  | cons i is ih =>
    cases htake : takeEvent c with
    | none => cases ((takeEvent_eq_none_iff c).mp htake).symm.trans he
    | some q =>
      obtain ⟨w, c'⟩ := q
      obtain ⟨hevents, hr'⟩ := events_of_takeEvent_some htake
      cases hevents.symm.trans he
      obtain ⟨t, ht, -⟩ := exec_inputs (decode w) s
      have hstep := (step_event h hr htake).trans (exec_withInputs ht _)
      rw [List.length_cons, core_run_succ _ hstep, execAll_cons (exec_withInputs ht rest), afterEvent_eq]
      by_cases hlast : c'.events = []
      · rw [if_pos hlast, hlast]; rfl
      · rw [if_neg hlast]
        exact ih rfl (hr'.trans hr) rfl hlast

/-- The machine over an edge with rst_n = 1. -/
theorem runCycle_events {c : Cycle} (hr : c.rstN = true) (s : State) : runCycle c s = execAll c.events s := by
  unfold runCycle Cycle.steps
  rw [if_pos hr]
  by_cases hne : c.events = []
  · rw [hne]
    exact core_run_succ 0 (step_noEvent rfl hr ((takeEvent_eq_none_iff c).mpr hne))
  · rw [Nat.max_eq_right (List.length_pos_iff.mpr hne), core_run_events rfl hr hne]

/-! ## The interfaces of an edge -/

/-- `t` is what `s` becomes under the event of an interface, if it carries one. -/
def Takes (o : Option Instr) (s t : State) : Prop := execAll o.toList s = .next t

/-- What holds of a state and itself, and across the event, holds across the interface. -/
theorem Takes.rel {o : Option Instr} {s t : State} (h : Takes o s t) {R : State → State → Prop} (hrefl : R s s)
    (hexec : ∀ i, o = some i → exec i s = .next t → R s t) : R s t := by
  cases o with
  | none => cases h; exact hrefl
  | some i =>
    obtain ⟨u, hu, -⟩ := exec_inputs i s
    cases (execAll_cons hu []).symm.trans h
    exact hexec i rfl hu

/-- An edge is its three interfaces in their order. -/
theorem takes_of_events {c : Cycle} {s u : State} (h : execAll c.events s = .next u) : ∃ s₁ s₂,
    Takes (c.bus.map fun w => decode (.bus w)) s s₁ ∧ Takes (c.rx.map fun w => decode (.rx w)) s₁ s₂ ∧
      Takes (c.resp.map fun w => decode (.resp w)) s₂ u := by
  unfold Cycle.events at h
  obtain ⟨s₁, h₁⟩ := execAll_next (c.bus.map fun w => decode (.bus w)).toList s
  obtain ⟨s₂, h₂⟩ := execAll_next (c.rx.map fun w => decode (.rx w)).toList s₁
  rw [List.append_assoc, execAll_append h₁, execAll_append h₂] at h
  exact ⟨s₁, s₂, h₁, h₂, h⟩

/-- A host access leaves the receive path, and a running transmission. -/
theorem Takes.bus_frame {o : Option (BitVec 39)} {s t : State} (h : Takes (o.map fun w => decode (.bus w)) s t) :
    t.rx = s.rx ∧ (s.tx.busy = true → t.tx = s.tx) := by
  refine h.rel (R := fun s t => t.rx = s.rx ∧ (s.tx.busy = true → t.tx = s.tx)) ⟨rfl, fun _ => rfl⟩ fun i ho hi => ?_
  obtain ⟨w, -, rfl⟩ := Option.map_eq_some_iff.mp ho
  obtain ⟨hrx, hdone, hfail⟩ := decode_bus_other w
  exact ⟨(exec_receive_unchanged hrx hi).1, fun hb => exec_tx_unchanged_of_busy hb hdone hfail hi⟩

theorem isTxEvent_of_isRxEvent {i : Instr} (h : isRxEvent i = true) : isTxEvent i = false := by
  cases i with
  | txDone | txFail | cmdTxStart => cases h
  | _ => rfl

theorem isTxEvent_decode_resp (w : BitVec 1) : isTxEvent (decode (.resp w)) = true := by
  rcases decode_resp_cases w with h | h <;> rw [h] <;> rfl

/-- An RX event leaves the transmit path. -/
theorem Takes.rx_frame {o : Option (BitVec 34)} {s t : State} (h : Takes (o.map fun w => decode (.rx w)) s t) :
    t.tx = s.tx := by
  refine h.rel (R := fun s t => t.tx = s.tx) rfl fun i ho hi => ?_
  obtain ⟨w, -, rfl⟩ := Option.map_eq_some_iff.mp ho
  exact exec_tx_unchanged (isTxEvent_of_isRxEvent (isRxEvent_decode_rx w)) hi

/-- A TX response leaves the receive path. -/
theorem Takes.resp_frame {o : Option (BitVec 1)} {s t : State} (h : Takes (o.map fun w => decode (.resp w)) s t) :
    t.rx = s.rx := by
  refine h.rel (R := fun s t => t.rx = s.rx) rfl fun i ho hi => ?_
  obtain ⟨w, -, rfl⟩ := Option.map_eq_some_iff.mp ho
  obtain ⟨y, hy, -⟩ := exec_txEvent (isTxEvent_decode_resp w) s
  cases hy.symm.trans hi
  rfl

end Sys2Proof.Machine

open Sys2Proof Sys2Proof.Machine

/-- Settles O12: by what is pending; every operation answers a next state. -/
theorem everyStepAnswersNext : Obligations.EveryStepAnswersNext := by
  intro s
  cases h : s.inputs with
  | nil => exact ⟨s, step_empty h⟩
  | cons c rest =>
    cases hr : c.rstN with
    | false => exact ⟨heldInReset rest, by simp [step, h, hr]⟩
    | true =>
      cases htake : takeEvent c with
      | none => exact ⟨_, step_noEvent h hr htake⟩
      | some q =>
        obtain ⟨t, ht, -⟩ := exec_inputs (decode q.1) { s with inputs := afterEvent q.2 rest }
        exact ⟨t, (step_event h hr htake).trans ht⟩

/-- Settles O8: the steps of the edge run its events in their order, and a run of events answers a next state. -/
theorem cycleOrderBusRxResponse : Obligations.CycleOrderBusRxResponse := by
  intro s b r t rest h hsome events
  have hne : Cycle.events ⟨true, b, r, t⟩ ≠ [] := by
    rw [Ne, events_eq_nil_iff]
    rintro ⟨rfl, rfl, rfl⟩
    cases hsome
  obtain ⟨u, hu⟩ := execAll_next events { s with inputs := rest }
  exact ⟨u, (core_run_events h rfl hne).trans hu, hu⟩

end

section
/-! ERR and INT_RAW (60_exceptions.md R231 to R239): which cause and which source an operation raises, said once for all
of them; every other bit stays, but for the host's W1C writes. -/

namespace Sys2Proof.Machine

/-! ## What each operation raises -/

/-- The error cause an operation raises in a state, if any (60_exceptions.md R232). -/
def raisedErr (s : State) : Instr → Option ErrCause
  | .rxPair p => if symbolOvf (classify s p) (openRx s.rx) then some .rxOvf else none
  | .rxEnd _ => if flushOvf (openRx s.rx) then some .rxOvf else none
  | .rxRsvd _ => some .rxIllOp
  | .txDone => if s.tx.busy then none else some .txSpurious
  | .txFail => some (if s.tx.busy then .txFail else .txSpurious)
  | .cmdTxStart _ _ _ _ => if s.tx.busy then some .txBusyStart else none
  | .cmdIllegal _ _ => some .illCmd
  | .rxNodata _ | .cmdNop _ | .wrCfg _ | .wrVariant _ | .wrHdrWin _ | .wrB0Win _ | .wrB1Win _ | .wrStopWin _
  | .wrTxHdr _ | .wrTxB0 _ | .wrTxB1 _ | .wrTxStop _ | .wrTxTrl0 _ | .wrTxTrl1 _ | .wrErr _ | .wrIntRaw _ | .wrIntEna _
  | .wrIgnored _ _ | .busRead _ _ => none

/-- The interrupt source beside ERR that an operation raises in a state, if any (60_exceptions.md R234). -/
def raisedInt (s : State) : Instr → Option IntSource
  | .rxEnd _ | .rxNodata _ => some .rxDone
  | .txDone => if doneEnds s.tx then some .txDone else none
  | .rxPair _ | .rxRsvd _ | .txFail | .cmdNop _ | .cmdTxStart _ _ _ _ | .cmdIllegal _ _ | .wrCfg _ | .wrVariant _
  | .wrHdrWin _ | .wrB0Win _ | .wrB1Win _ | .wrStopWin _ | .wrTxHdr _ | .wrTxB0 _ | .wrTxB1 _ | .wrTxStop _
  | .wrTxTrl0 _ | .wrTxTrl1 _ | .wrErr _ | .wrIntRaw _ | .wrIntEna _ | .wrIgnored _ _ | .busRead _ _ => none

/-- The bits an operation sets in ERR. -/
def errSet (s : State) (i : Instr) : Word := (raisedErr s i).elim 0 errBit

/-- The bits an operation sets in INT_RAW. -/
def intSet (s : State) (i : Instr) : Word :=
  (raisedErr s i).elim 0 (fun _ => intBit .err) ||| (raisedInt s i).elim 0 intBit

/-- An operation sets those bits and, but for the W1C write of the register, leaves the others. -/
theorem exec_flags {i : Instr} {s t : State} (h : exec i s = .next t) :
    ((∀ v, i ≠ .wrErr v) → t.err = s.err ||| errSet s i) ∧
      ((∀ v, i ≠ .wrIntRaw v) → t.intRaw = s.intRaw ||| intSet s i) := by
  cases i with
  | rxPair p =>
    rw [exec_rxPair] at h
    cases h
    by_cases ho : symbolOvf (classify s p) (openRx s.rx) = true <;>
      simp [errSet, intSet, raisedErr, raisedInt, withRx, ho]
  | rxEnd d =>
    rw [exec_rxEnd] at h
    cases h
    by_cases ho : flushOvf (openRx s.rx) = true <;> simp [errSet, intSet, raisedErr, raisedInt, ho, BitVec.or_assoc]
  | txDone =>
    rw [exec_txDone] at h
    cases h
    cases hb : s.tx.busy with
    | true => by_cases he : doneEnds s.tx = true <;> simp [errSet, intSet, raisedErr, raisedInt, hb, he]
    | false => simp [errSet, intSet, raisedErr, raisedInt, hb, doneEnds]
  | txFail =>
    rw [exec_txFail] at h
    cases h
    by_cases hb : s.tx.busy = true <;> simp [errSet, intSet, raisedErr, raisedInt, hb]
  | cmdTxStart c b a ign =>
    cases hb : s.tx.busy with
    | true =>
      rw [exec_txStart_busy c b a ign hb] at h
      cases h
      simp [errSet, intSet, raisedErr, raisedInt, hb]
    | false =>
      rw [exec_txStart_idle c b a ign hb] at h
      cases h
      simp [errSet, intSet, raisedErr, raisedInt, hb, startTx]
  | wrErr v => cases h; exact ⟨fun hi => absurd rfl (hi v), fun _ => by simp [intSet, raisedErr, raisedInt]⟩
  | wrIntRaw v => cases h; exact ⟨fun _ => by simp [errSet, raisedErr], fun hi => absurd rfl (hi v)⟩
  | _ => cases h; simp [errSet, intSet, raisedErr, raisedInt, raiseErr, raiseEvent]

/-! ## A bit newly set -/

/-- What `y` has beyond `x`. -/
theorem getLsbD_of_newly {x y z : Word} (h : y = x ||| z) {k : Nat} (hk : y.getLsbD k = true ∧ x.getLsbD k = false) :
    z.getLsbD k = true := by
  have hy := hk.1
  rwa [h, BitVec.getLsbD_or, hk.2, Bool.false_or] at hy

/-- A W1C write sets no bit. -/
theorem not_newly_w1c (x v mask : Word) (k : Nat) : ¬((w1c x v mask).getLsbD k = true ∧ x.getLsbD k = false) := by
  rintro ⟨hset, hclear⟩
  rw [w1c, BitVec.getLsbD_and, hclear, Bool.false_and] at hset
  cases hset

theorem intBit_getLsbD (e : IntSource) (k : Nat) : (intBit e).getLsbD k = (k == e.ctorIdx) := by
  have hbit : intBit e = BitVec.twoPow 32 e.ctorIdx := by cases e <;> rfl
  have hlt : e.ctorIdx < 32 := by cases e <;> decide
  rw [hbit, BitVec.getLsbD_twoPow, decide_eq_true hlt, Bool.true_and]
  exact decide_eq_decide.mpr eq_comm

/-- A newly set ERR bit is that of the cause raised. -/
theorem exec_newErr {i : Instr} {s t : State} (h : exec i s = .next t) {k : Nat}
    (hk : t.err.getLsbD k = true ∧ s.err.getLsbD k = false) : ∃ c, raisedErr s i = some c ∧ k = c.ctorIdx := by
  by_cases hw : ∃ v, i = .wrErr v
  · obtain ⟨v, rfl⟩ := hw
    cases h
    exact absurd hk (not_newly_w1c s.err v errMask k)
  · have hset := getLsbD_of_newly ((exec_flags h).1 (not_exists.mp hw)) hk
    unfold errSet at hset
    cases hc : raisedErr s i with
    | none => rw [hc] at hset; exact absurd hset (by simp)
    | some c =>
      rw [hc, Option.elim_some, errBit_getLsbD] at hset
      exact ⟨c, rfl, eq_of_beq hset⟩

/-- An operation that raises a cause is no W1C write, so it sets that bit and INT_RAW.ERR. -/
theorem exec_raises {i : Instr} {s t : State} (h : exec i s = .next t) {c : ErrCause} (hc : raisedErr s i = some c) :
    t.err = s.err ||| errBit c ∧ t.intRaw.getLsbD 2 = true := by
  obtain ⟨herr, hint⟩ := exec_flags h
  constructor
  · rw [herr (by rintro v rfl; cases hc), errSet, hc, Option.elim_some]
  · rw [hint (by rintro v rfl; cases hc), intSet, hc]
    simp [intBit_err_getLsbD]

/-- Which operation raises a source beside ERR. -/
theorem raisedInt_eq_some {s : State} {i : Instr} {e : IntSource} (h : raisedInt s i = some e) :
    e = .rxDone ∧ ((∃ d, i = .rxEnd d) ∨ ∃ d, i = .rxNodata d) ∨ e = .txDone ∧ i = .txDone ∧ doneEnds s.tx = true := by
  cases i with
  | rxEnd d => cases h; exact .inl ⟨rfl, .inl ⟨d, rfl⟩⟩
  | rxNodata d => cases h; exact .inl ⟨rfl, .inr ⟨d, rfl⟩⟩
  | txDone =>
    obtain ⟨hends, he⟩ := Option.ite_none_right_eq_some.mp h
    exact .inr ⟨(Option.some.inj he).symm, rfl, hends⟩
  | _ => cases h

/-- A newly set INT_RAW bit is that of the source raised, or ERR with a cause. -/
theorem exec_newInt {i : Instr} {s t : State} (h : exec i s = .next t) {k : Nat}
    (hk : t.intRaw.getLsbD k = true ∧ s.intRaw.getLsbD k = false) :
    k = 0 ∧ ((∃ d, i = .rxEnd d) ∨ ∃ d, i = .rxNodata d) ∨ k = 1 ∧ i = .txDone ∧ doneEnds s.tx = true ∨
      k = 2 ∧ ∃ c, raisedErr s i = some c := by
  by_cases hw : ∃ v, i = .wrIntRaw v
  · obtain ⟨v, rfl⟩ := hw
    cases h
    exact absurd hk (not_newly_w1c s.intRaw v intMask k)
  · have hset := getLsbD_of_newly ((exec_flags h).2 (not_exists.mp hw)) hk
    rw [intSet, BitVec.getLsbD_or, Bool.or_eq_true] at hset
    rcases hset with hset | hset
    · cases hc : raisedErr s i with
      | none => rw [hc] at hset; exact absurd hset (by simp)
      | some c =>
        rw [hc, Option.elim_some, intBit_err_getLsbD] at hset
        exact .inr (.inr ⟨eq_of_beq hset, c, rfl⟩)
    · cases he : raisedInt s i with
      | none => rw [he] at hset; exact absurd hset (by simp)
      | some e =>
        rw [he, Option.elim_some, intBit_getLsbD] at hset
        obtain ⟨rfl, hi⟩ | ⟨rfl, hi⟩ := raisedInt_eq_some he
        · exact .inl ⟨eq_of_beq hset, hi⟩
        · exact .inr (.inl ⟨eq_of_beq hset, hi⟩)

/-! ## The causes -/

/-- The event and the state that a cause comes from (60_exceptions.md R232). -/
def CausedBy (s : State) (i : Instr) : ErrCause → Prop
  | .illCmd => ∃ ign op, i = .cmdIllegal ign op
  | .txBusyStart => (∃ c b a ign, i = .cmdTxStart c b a ign) ∧ s.tx.busy = true
  | .txFail => i = .txFail ∧ s.tx.busy = true
  | .rxOvf => ((∃ p, i = .rxPair p) ∨ ∃ d, i = .rxEnd d) ∧ s.rx.isOpen = true ∧ 32 ≤ s.rx.count.toNat
  | .rxIllOp => ∃ d, i = .rxRsvd d
  | .txSpurious => (i = .txDone ∨ i = .txFail) ∧ s.tx.busy = false

/-- Only a byte of an open capture overflows, for one just opened holds no partial byte. -/
theorem open_of_partial_of_bufFull {r : RxState} (hn : (openRx r).nbits ≠ 0) (hfull : bufFull (openRx r) = true) :
    r.isOpen = true ∧ 32 ≤ r.count.toNat := by
  cases ho : r.isOpen with
  | false => rw [openRx_of_closed ho] at hn; exact absurd rfl hn
  | true => rw [openRx_of_isOpen ho] at hfull; exact ⟨rfl, of_decide_eq_true hfull⟩

/-- Every cause an operation raises is raised in the state it stands for. -/
theorem causedBy_of_raisedErr {s : State} {i : Instr} {c : ErrCause} (h : raisedErr s i = some c) : CausedBy s i c := by
  cases i with
  | rxPair p =>
    obtain ⟨hovf, hc⟩ := Option.ite_none_right_eq_some.mp h
    cases hc
    simp only [symbolOvf, Bool.and_eq_true] at hovf
    obtain ⟨⟨-, hn⟩, hfull⟩ := hovf
    refine ⟨.inl ⟨p, rfl⟩, open_of_partial_of_bufFull ?_ hfull⟩
    rw [eq_of_beq hn]
    decide
  | rxEnd d =>
    obtain ⟨hovf, hc⟩ := Option.ite_none_right_eq_some.mp h
    cases hc
    simp only [flushOvf, Bool.and_eq_true] at hovf
    exact ⟨.inr ⟨d, rfl⟩, open_of_partial_of_bufFull (bne_iff_ne.mp hovf.1) hovf.2⟩
  | rxRsvd d => cases h; exact ⟨d, rfl⟩
  | txDone =>
    obtain ⟨hidle, hc⟩ := Option.ite_none_left_eq_some.mp h
    cases hc
    exact ⟨.inl rfl, Bool.not_eq_true _ ▸ hidle⟩
  | txFail =>
    cases h
    cases hb : s.tx.busy with
    | true => exact ⟨rfl, hb⟩
    | false => exact ⟨.inr rfl, hb⟩
  | cmdTxStart c b a ign =>
    obtain ⟨hb, hc⟩ := Option.ite_none_right_eq_some.mp h
    cases hc
    exact ⟨⟨c, b, a, ign, rfl⟩, hb⟩
  | cmdIllegal ign op => cases h; exact ⟨ign, op, rfl⟩
  | _ => cases h

theorem ctorIdx_injective {c d : ErrCause} (h : c.ctorIdx = d.ctorIdx) : c = d := by
  rw [← ErrCause.ofNat_ctorIdx c, h, ErrCause.ofNat_ctorIdx]

theorem ctorIdx_lt (c : ErrCause) : c.ctorIdx < 6 := by cases c <;> decide

theorem errBit_eq_ofNat (c : ErrCause) : errBit c = BitVec.ofNat 32 (2 ^ c.ctorIdx) := by cases c <;> rfl

/-! ## What the events of one cycle leave -/

theorem or_and_left_self (x y : Word) : (x ||| y) &&& x = x :=
  BitVec.eq_of_getLsbD_eq fun k _ => by cases h : x.getLsbD k <;> simp [h]

/-- Two events that set bits one after the other set at least what each sets alone from 0. -/
theorem or_zero_and_self (w x y : Word) :
    ((0 ||| x) ||| (0 ||| y)) &&& ((w ||| x) ||| y) = (0 ||| x) ||| (0 ||| y) := by
  have hz : ∀ z : Word, 0 ||| z = z := fun _ => BitVec.zero_or
  rw [hz, hz, BitVec.and_comm, BitVec.or_assoc, BitVec.or_comm w, or_and_left_self]

/-- A W1C write changes its register only. -/
theorem exec_w1c {i : Instr} {v : Word} (hi : i = .wrErr v ∨ i = .wrIntRaw v) (s : State) :
    ∃ e f, exec i s = .next { s with err := e, intRaw := f } := by
  rcases hi with rfl | rfl
  · exact ⟨_, s.intRaw, rfl⟩
  · exact ⟨s.err, _, rfl⟩

end Sys2Proof.Machine

open Sys2Proof Sys2Proof.Machine

/-- Settles O45: a newly set bit is that of the cause raised, and each cause has its own bit. -/
theorem errBitsOnlyByTheirCause : Obligations.ErrBitsOnlyByTheirCause := by
  intro i s t h newly
  have hcause : ∀ c : ErrCause, newly c.ctorIdx → CausedBy s i c := fun c hc => by
    obtain ⟨d, hd, hidx⟩ := exec_newErr h hc
    exact ctorIdx_injective hidx ▸ causedBy_of_raisedErr hd
  refine ⟨hcause .illCmd, hcause .txBusyStart, hcause .txFail, hcause .rxOvf, hcause .rxIllOp, hcause .txSpurious,
    fun k hk hnew => ?_⟩
  obtain ⟨c, -, hidx⟩ := exec_newErr h hnew
  exact absurd (ctorIdx_lt c) (by omega)

/-- Settles O46: a newly set bit is that of the source raised; ERR comes with the bit of a cause. -/
theorem interruptSources : Obligations.InterruptSources := by
  intro i s t h newly
  have hsource : ∀ k, newly k → _ := fun k hk => exec_newInt h hk
  refine ⟨fun h0 => ?_, fun h1 => ?_, fun h2 => ?_, fun k hk hnew => ?_⟩
  · obtain ⟨-, hi⟩ | ⟨hk, -⟩ | ⟨hk, -⟩ := hsource 0 h0
    · exact hi
    all_goals omega
  · obtain ⟨hk, -⟩ | ⟨-, rfl, hends⟩ | ⟨hk, -⟩ := hsource 1 h1
    · omega
    · obtain ⟨hb, hnone⟩ := Bool.and_eq_true_iff.mp hends
      rw [exec_txDone_of_none hb (Option.isNone_iff_eq_none.mp hnone)] at h
      cases h
      exact ⟨rfl, hb, rfl⟩
    · omega
  · obtain ⟨hk, -⟩ | ⟨hk, -⟩ | ⟨-, c, hc⟩ := hsource 2 h2
    · omega
    · omega
    · have herr := (exec_raises h hc).1
      refine ⟨fun hzero => ?_, c.ctorIdx, ctorIdx_lt c, errBit_eq_ofNat c ▸ herr⟩
      have hset := congrArg (BitVec.getLsbD · c.ctorIdx) (herr.symm.trans hzero)
      simp [errBit_getLsbD] at hset
  · have := hsource k hnew
    omega

/-- Settles O47: every other operation only sets bits. -/
theorem onlyHostClearsErrAndIntRaw : Obligations.OnlyHostClearsErrAndIntRaw := by
  intro i s t h
  obtain ⟨herr, hint⟩ := exec_flags h
  exact ⟨fun hi => by rw [herr hi, or_and_left_self], fun hi => by rw [hint hi, or_and_left_self]⟩

/-- Settles O48: an operation raises one cause at most, and INT_RAW.ERR with it. -/
theorem atMostOneCausePerEvent : Obligations.AtMostOneCausePerEvent := by
  intro i s t h
  refine ⟨fun j k hj hj' hk hk' => ?_, fun k hk hk' => ?_⟩
  · obtain ⟨c, hc, rfl⟩ := exec_newErr h ⟨hj, hj'⟩
    obtain ⟨d, hd, rfl⟩ := exec_newErr h ⟨hk, hk'⟩
    rw [Option.some.inj (hc.symm.trans hd)]
  · obtain ⟨c, hc, -⟩ := exec_newErr h ⟨hk, hk'⟩
    exact (exec_raises h hc).2

/-- Settles O9: after the W1C write the two events have the effects they have from a state with both registers 0, and
they only set bits. -/
theorem setWinsOverClear : Obligations.SetWinsOverClear := by
  intro s b r t rest v h hw
  obtain ⟨e, f, hbus⟩ := exec_w1c hw { s with inputs := rest }
  obtain ⟨x, hx, hx'⟩ := exec_rxEvent (isRxEvent_decode_rx r) { s with inputs := rest, err := 0, intRaw := 0 }
  obtain ⟨y, hy, hy'⟩ := exec_txEvent (isTxEvent_decode_resp t) { s with inputs := rest, err := 0, intRaw := 0 }
  have hrx : exec (decode (.rx r)) { s with inputs := rest, err := e, intRaw := f } =
      .next (x.on { s with inputs := rest, err := e, intRaw := f }) := by
    simpa [TxEffect.on] using hx' ⟨s.tx, e, f⟩
  have hresp : exec (decode (.resp t)) (x.on { s with inputs := rest, err := e, intRaw := f }) =
      .next (y.on (x.on { s with inputs := rest, err := e, intRaw := f })) := by
    simpa [RxEffect.on] using hy' { x with errSet := e ||| x.errSet, intSet := f ||| x.intSet }
  refine ⟨_, _, _, (core_run_events h rfl (by simp [events_eq_nil_iff])).trans ((execAll_cons hbus _).trans
    ((execAll_cons hrx _).trans (execAll_cons hresp []))), exec_withInputs hx s.inputs, exec_withInputs hy s.inputs,
    or_zero_and_self _ _ _, or_zero_and_self _ _ _⟩

/-- Settles O10: the command is refused while busy, and the DONE after it finds no next position. -/
theorem startInCycleOfLastDoneIsDropped : Obligations.StartInCycleOfLastDoneIsDropped := by
  intro s b rest c bb a ign h hdec hbusy hslot hframe
  have hend : nextPos s.tx = none := nextPos_end (by rw [hslot]; decide) hframe.ge
  have hrun := core_run_events h rfl (by simp [events_eq_nil_iff])
  have hevents : Cycle.events ⟨true, some b, none, some 0⟩ = [.cmdTxStart c bb a ign, .txDone] :=
    congrArg (· :: _) hdec
  have hdone := exec_txDone_of_none (s := raiseErr .txBusyStart { s with inputs := rest }) hbusy hend
  rw [hevents, execAll_cons (exec_txStart_busy c bb a ign (s := { s with inputs := rest }) hbusy), execAll_cons hdone]
    at hrun
  obtain ⟨herr, hint⟩ := raiseErr_bits .txBusyStart { s with inputs := rest }
  refine ⟨_, hrun, rfl, rfl, (herr 1).trans (Bool.or_true _), ?_, ?_⟩
  · rw [raiseEvent_intRaw, BitVec.getLsbD_or]
    exact Bool.or_true _
  · rw [raiseEvent_intRaw, BitVec.getLsbD_or]
    exact Bool.or_eq_true_iff.mpr (.inl ((hint 2).trans (Bool.or_true _)))

end

section
/-! The configuration registers (60_exceptions.md R250): no event of either path writes one, and each write writes its
own. -/

namespace Sys2Proof.Machine

/-- Only the two events that end a capture write the results. -/
theorem exec_result_writer {i : Instr} {s t : State} (h : exec i s = .next t)
    (hne : t.result ≠ s.result ∨ t.resultRaw ≠ s.resultRaw) : (∃ d, i = .rxEnd d) ∨ ∃ d, i = .rxNodata d := by
  cases i with
  | rxEnd d => exact .inl ⟨d, rfl⟩
  | rxNodata d => exact .inr ⟨d, rfl⟩
  | rxPair p => rw [exec_rxPair] at h; cases h; simp [withRx] at hne
  | rxRsvd d => cases h; simp at hne
  | _ =>
    obtain ⟨-, hresult, hraw⟩ := exec_receive_unchanged rfl h
    simp [hresult, hraw] at hne

end Sys2Proof.Machine

open Sys2Proof Sys2Proof.Machine

/-- Settles O52: the effects of the two paths' events hold no configuration register, and a write names its own. -/
theorem configurationOnlyByItsWrite : Obligations.ConfigurationOnlyByItsWrite := by
  intro i s t h
  have hresult := exec_result_writer h
  cases hr : isRxEvent i with
  | true =>
    obtain ⟨x, hx, -⟩ := exec_rxEvent hr s
    cases hx.symm.trans h
    simpa [RxEffect.on] using hresult
  | false =>
    cases ht : isTxEvent i with
    | true =>
      obtain ⟨y, hy, -⟩ := exec_txEvent ht s
      cases hy.symm.trans h
      simp [TxEffect.on]
    | false =>
      cases i with
      | rxPair | rxEnd | rxNodata | rxRsvd => cases hr
      | txDone | txFail | cmdTxStart => cases ht
      | _ => cases h; simp

end

section
/-! The block with its agents (60_exceptions.md R248, R249): each move by what it changes, and what the duties give at a
clock edge: a presented word stays until it is answered, and an RX event keeps the batch and the capture together. -/

namespace Sys2Proof.Machine

/-! ## The moves -/

theorem move_receive_eq_some {y z : System} {ps : List PulsePair} (h : y.move (.receive ps) = some z) :
    y.agents.rx = .idle ∧ z = { y with agents := { y.agents with rx := .batch ps } } := by
  obtain ⟨hidle, hz⟩ := Option.ite_none_right_eq_some.mp h
  exact ⟨hidle, (Option.some.inj hz).symm⟩

theorem move_receive_of_idle {y : System} (h : y.agents.rx = .idle) (ps : List PulsePair) :
    y.move (.receive ps) = some { y with agents := { y.agents with rx := .batch ps } } := if_pos h

theorem move_timeOut_eq_some {y z : System} (h : y.move .timeOut = some z) :
    y.agents.rx = .idle ∧ z = { y with agents := { y.agents with rx := .timedOut } } := by
  obtain ⟨hidle, hz⟩ := Option.ite_none_right_eq_some.mp h
  exact ⟨hidle, (Option.some.inj hz).symm⟩

/-- A pulse that is due is the first of the presented word or the second of the word whose first is on the air. -/
theorem transmitPulse_eq_some {s : State} {t u : TxTransport} {l : Polarity} {d : Dur}
    (h : transmitPulse s t l d = some u) :
    (t = .idle ∧ s.tx.valid = true ∧ u = .firstSent s.tx.word) ∨ ∃ w, t = .firstSent w ∧ u = .sent w := by
  cases t with
  | idle =>
    obtain ⟨⟨hvalid, -⟩, hu⟩ := Option.ite_none_right_eq_some.mp h
    exact .inl ⟨rfl, hvalid, (Option.some.inj hu).symm⟩
  | firstSent w =>
    obtain ⟨-, hu⟩ := Option.ite_none_right_eq_some.mp h
    exact .inr ⟨w, rfl, (Option.some.inj hu).symm⟩
  | sent w => cases h
  | failed => cases h

theorem move_transmit_eq_some {y z : System} {l : Polarity} {d : Dur} (h : y.move (.transmit l d) = some z) :
    ∃ u, transmitPulse y.machine y.agents.tx l d = some u ∧ z = { y with agents := { y.agents with tx := u } } := by
  simp only [System.move] at h
  split at h
  · next u hu => exact ⟨u, hu, (Option.some.inj h).symm⟩
  · cases h

theorem move_transmitFailure_eq_some {y z : System} (h : y.move .transmitFailure = some z) :
    y.machine.tx.valid = true ∧ z = { y with agents := { y.agents with tx := .failed } } := by
  simp only [System.move] at h
  split at h
  · obtain ⟨hvalid, hz⟩ := Option.ite_none_right_eq_some.mp h
    exact ⟨hvalid, (Option.some.inj hz).symm⟩
  · obtain ⟨hvalid, hz⟩ := Option.ite_none_right_eq_some.mp h
    exact ⟨hvalid, (Option.some.inj hz).symm⟩
  · cases h
  · cases h

theorem move_edge_eq_some_iff {y z : System} {c : Cycle} : y.move (.edge c) = some z ↔
    c.events.all (keepsDuty y.machine y.agents) = true ∧ runCycle c y.machine = .next z.machine ∧
      z.agents = y.agents.afterCycle c := by
  obtain ⟨t, a⟩ := z
  rw [System.move, Option.ite_none_right_eq_some]
  refine and_congr_right fun _ => ?_
  split
  · next u hu => rw [hu]; simp [eq_comm]
  · next hu => rw [hu]; simp
  · next hu => rw [hu]; simp

/-- Between two edges the machine stands still. -/
theorem move_machine {y z : System} {m : Move} (hm : ∀ c, m ≠ .edge c) (h : y.move m = some z) :
    z.machine = y.machine := by
  cases m with
  | receive ps => rw [(move_receive_eq_some h).2]
  | timeOut => rw [(move_timeOut_eq_some h).2]
  | transmit l d =>
    obtain ⟨u, -, rfl⟩ := move_transmit_eq_some h
    rfl
  | transmitFailure => rw [(move_transmitFailure_eq_some h).2]
  | edge c => exact absurd rfl (hm c)

/-! ## The records after an edge -/

theorem afterCycle_tx (a : Agents) (c : Cycle) :
    (a.afterCycle c).tx = if c.rstN = true ∧ c.resp = none then a.tx else .idle := by
  unfold Agents.afterCycle
  rw [foldl_sent]
  cases c.rstN <;> cases c.resp <;> rfl

theorem afterCycle_rx_of_none (a : Agents) {c : Cycle} (h : c.rx = none) : (a.afterCycle c).rx = a.rx := by
  unfold Agents.afterCycle
  rw [foldl_sent, h]
  cases c.rstN <;> rfl

theorem afterCycle_rx_of_some (a : Agents) {c : Cycle} {w : BitVec 34} (h : c.rx = some w) :
    (a.afterCycle c).rx = (a.sent (decode (.rx w))).rx := by
  unfold Agents.afterCycle
  rw [foldl_sent, h]
  cases c.rstN <;> rfl

/-! ## What a duty gives -/

theorem due_eq_some {t : RxTransport} {p : PulsePair} (h : t.due = some p) : ∃ ps, t = .batch (p :: ps) := by
  cases t with
  | batch ps =>
    cases ps with
    | nil => cases h
    | cons q qs => cases h; exact ⟨qs, rfl⟩
  | idle => cases h
  | timedOut => cases h

/-- An RX event that keeps its duty leaves a capture open only while its batch is in delivery. -/
theorem dutiful_rx_open {s s' t : State} {a : Agents} {i : Instr} (hi : isRxEvent i = true)
    (hduty : keepsDuty s a i = true) (h : exec i s' = .next t) (hopen : t.rx.isOpen = true) :
    ∃ ps, (a.sent i).rx = .batch ps := by
  cases i with
  | rxPair p =>
    obtain ⟨ps, hps⟩ := due_eq_some (eq_of_beq hduty)
    exact ⟨ps, congrArg RxTransport.sentPair hps⟩
  | rxEnd d => rw [exec_rxEnd] at h; cases h; cases hopen
  | rxNodata d => rw [exec_rxNodata] at h; cases h; cases hopen
  | rxRsvd d => cases hduty
  | _ => cases hi

/-- A response keeps its duty only while a word is presented. -/
theorem dutiful_resp_valid {s : State} {a : Agents} {w : BitVec 1} (h : keepsDuty s a (decode (.resp w)) = true) :
    s.tx.valid = true := by
  rcases decode_resp_cases w with hw | hw <;> rw [hw] at h <;> exact (Bool.and_eq_true_iff.mp h).1

/-- An event that keeps its duty raises none of TX_BUSY_START, RX_ILL_OP and TX_SPURIOUS (ERR bits 1, 4 and 5), if
tx.busy is still what it was when the edge began. -/
theorem dutiful_cause {s s' : State} {a : Agents} {i : Instr} {c : ErrCause} (hvalid : s.tx.valid = s.tx.busy)
    (hduty : keepsDuty s a i = true) (hbusy : isTxEvent i = true → s'.tx.busy = s.tx.busy)
    (hc : raisedErr s' i = some c) : (0x32 : Word).getLsbD c.ctorIdx = false := by
  have hcause := causedBy_of_raisedErr hc
  cases c with
  | illCmd => rfl
  | txFail => rfl
  | rxOvf => rfl
  | txBusyStart =>
    obtain ⟨⟨c, b, a, ign, rfl⟩, hb⟩ := hcause
    rw [hbusy rfl] at hb
    simp [keepsDuty, hb] at hduty
  | rxIllOp =>
    obtain ⟨d, rfl⟩ := hcause
    cases hduty
  | txSpurious =>
    obtain ⟨rfl | rfl, hb⟩ := hcause <;> rw [hbusy rfl] at hb <;> simp [keepsDuty, hvalid, hb] at hduty

/-! ## No protocol error -/

/-- From `s` to `t` none of TX_BUSY_START, RX_ILL_OP and TX_SPURIOUS is newly set. -/
def NoProtocolError (s t : State) : Prop :=
  ∀ k, (0x32 : Word).getLsbD k = true → t.err.getLsbD k = true → s.err.getLsbD k = true

theorem NoProtocolError.trans {s t u : State} (h : NoProtocolError s t) (h' : NoProtocolError t u) :
    NoProtocolError s u := fun k hk hu => h k hk (h' k hk hu)

theorem NoProtocolError.newly_eq_zero {s t : State} (h : NoProtocolError s t) : t.err &&& ~~~s.err &&& 0x32 = 0 := by
  refine BitVec.eq_of_getLsbD_eq fun k hk => ?_
  rw [BitVec.getLsbD_and, BitVec.getLsbD_and]
  cases hm : (0x32 : Word).getLsbD k with
  | false => simp
  | true =>
    cases ht : t.err.getLsbD k with
    | false => simp
    | true => simp [h k hm ht]

/-- Where no bit of ERR is cleared either, the three bits are as they were. -/
theorem NoProtocolError.masked_eq {s t : State} (h : NoProtocolError s t) (hkept : t.err &&& s.err = s.err) :
    t.err &&& 0x32 = s.err &&& 0x32 := by
  refine BitVec.eq_of_getLsbD_eq fun k _ => ?_
  rw [BitVec.getLsbD_and, BitVec.getLsbD_and]
  cases hm : (0x32 : Word).getLsbD k with
  | false => rw [Bool.and_false, Bool.and_false]
  | true =>
    rw [Bool.and_true, Bool.and_true, Bool.eq_iff_iff]
    refine ⟨h k hm, fun hs => ?_⟩
    rw [← hkept, BitVec.getLsbD_and] at hs
    exact (Bool.and_eq_true_iff.mp hs).1

theorem exec_noProtocolError {i : Instr} {s t : State} (h : exec i s = .next t)
    (hc : ∀ c, raisedErr s i = some c → (0x32 : Word).getLsbD c.ctorIdx = false) : NoProtocolError s t := by
  intro k hk ht
  by_contra hs
  obtain ⟨c, hraised, rfl⟩ := exec_newErr h ⟨ht, Bool.eq_false_iff.mpr hs⟩
  exact absurd hk (by rw [hc c hraised]; decide)

/-- The events of an edge, each keeping its duty as the edge begins, raise no protocol error: a response answers a word
that is presented all through the edge. -/
theorem dutiful_events_noProtocolError {c : Cycle} {s u : State} {a : Agents} (hvalid : s.tx.valid = s.tx.busy)
    (hduty : c.events.all (keepsDuty s a) = true) (h : execAll c.events s = .next u) : NoProtocolError s u := by
  obtain ⟨hdbus, hdrx, hdresp⟩ := (events_all_iff c _).mp hduty
  obtain ⟨s₁, s₂, hbus, hrx, hresp⟩ := takes_of_events h
  have h₁ : NoProtocolError s s₁ := hbus.rel (fun _ _ => id) fun i ho hi => by
    obtain ⟨w, hw, rfl⟩ := Option.map_eq_some_iff.mp ho
    exact exec_noProtocolError hi fun _ => dutiful_cause hvalid (hdbus w hw) fun _ => rfl
  have h₂ : NoProtocolError s₁ s₂ := hrx.rel (fun _ _ => id) fun i ho hi => by
    obtain ⟨w, hw, rfl⟩ := Option.map_eq_some_iff.mp ho
    have htx := isTxEvent_of_isRxEvent (isRxEvent_decode_rx w)
    exact exec_noProtocolError hi fun _ => dutiful_cause hvalid (hdrx w hw) fun e => by rw [htx] at e; cases e
  have h₃ : NoProtocolError s₂ u := hresp.rel (fun _ _ => id) fun i ho hi => by
    obtain ⟨w, hw, rfl⟩ := Option.map_eq_some_iff.mp ho
    have hb : s.tx.busy = true := hvalid ▸ dutiful_resp_valid (hdresp w hw)
    have htx : s₂.tx = s.tx := hrx.rx_frame.trans (hbus.bus_frame.2 hb)
    exact exec_noProtocolError hi fun _ => dutiful_cause hvalid (hdresp w hw) fun _ => by rw [htx]
  exact (h₁.trans h₂).trans h₃

theorem move_noProtocolError {y z : System} {m : Move} (hvalid : y.machine.tx.valid = y.machine.tx.busy)
    (h : y.move m = some z) : NoProtocolError y.machine z.machine := by
  by_cases hedge : ∃ c, m = .edge c
  · obtain ⟨c, rfl⟩ := hedge
    obtain ⟨hduty, hrun, -⟩ := move_edge_eq_some_iff.mp h
    cases hr : c.rstN with
    | true =>
      rw [runCycle_events hr] at hrun
      exact dutiful_events_noProtocolError hvalid hduty hrun
    | false =>
      rw [runCycle_reset hr] at hrun
      intro k _ hset
      rw [← Host.Outcome.next.inj hrun, show (heldInReset y.machine.inputs).err = 0#32 from rfl, BitVec.getLsbD_zero]
        at hset
      cases hset
  · rw [move_machine (not_exists.mp hedge) h]
    exact fun _ _ => id

/-! ## The transports stay in step -/

theorem agentsOk_start : AgentsOk System.start where
  onTheAirIsPresented _ h := by rcases h with h | h <;> cases h
  failureIsOfPresented h := by cases h
  openIsInDelivery h := by cases h

/-- With nothing on the air only the open capture matters. -/
theorem agentsOk_of_idle {z : System} (htx : z.agents.tx = .idle)
    (hrx : z.machine.rx.isOpen = true → ∃ ps, z.agents.rx = .batch ps) : AgentsOk z where
  onTheAirIsPresented w h := by rw [htx] at h; rcases h with h | h <;> cases h
  failureIsOfPresented h := by rw [htx] at h; cases h
  openIsInDelivery := hrx

theorem AgentsOk.transmit {y : System} (h : AgentsOk y) {l : Polarity} {d : Dur} {u : TxTransport}
    (hu : transmitPulse y.machine y.agents.tx l d = some u) :
    AgentsOk { y with agents := { y.agents with tx := u } } := by
  obtain ⟨-, hvalid, rfl⟩ | ⟨w, hfirst, rfl⟩ := transmitPulse_eq_some hu
  · refine { h with onTheAirIsPresented := ?_, failureIsOfPresented := nofun }
    rintro w (hw | hw) <;> cases hw
    exact ⟨hvalid, rfl⟩
  · refine { h with onTheAirIsPresented := ?_, failureIsOfPresented := nofun }
    rintro w (hw | hw) <;> cases hw
    exact h.onTheAirIsPresented w (.inl hfirst)

/-- A transport that has begun with a word or failed on it has that word presented, so the block is busy. -/
theorem AgentsOk.busy {y : System} (h : AgentsOk y) (htx : TransmitOk y.machine.tx) (hne : y.agents.tx ≠ .idle) :
    y.machine.tx.busy = true := by
  rw [← htx.validIsBusy]
  cases ht : y.agents.tx with
  | idle => exact absurd ht hne
  | firstSent w => exact (h.onTheAirIsPresented w (.inl ht)).1
  | sent w => exact (h.onTheAirIsPresented w (.inr ht)).1
  | failed => exact h.failureIsOfPresented ht

/-- The transmit path is what the record speaks of, so the same record stays in step while that path is the same. -/
theorem AgentsOk.of_sameTx {y z : System} (h : AgentsOk y) (hagents : z.agents.tx = y.agents.tx)
    (hmachine : z.machine.tx = y.machine.tx) (hrx : z.machine.rx.isOpen = true → ∃ ps, z.agents.rx = .batch ps) :
    AgentsOk z where
  onTheAirIsPresented w hw := by rw [hmachine]; exact h.onTheAirIsPresented w (hagents ▸ hw)
  failureIsOfPresented hf := by rw [hmachine]; exact h.failureIsOfPresented (hagents ▸ hf)
  openIsInDelivery := hrx

/-- After an edge whose events keep their duties, an open capture is of the batch in delivery. -/
theorem AgentsOk.edge_rx {y : System} (h : AgentsOk y) {c : Cycle} {u : State}
    (hduty : c.events.all (keepsDuty y.machine y.agents) = true) (hrun : execAll c.events y.machine = .next u)
    (hopen : u.rx.isOpen = true) : ∃ ps, (y.agents.afterCycle c).rx = .batch ps := by
  obtain ⟨-, hdrx, -⟩ := (events_all_iff c _).mp hduty
  obtain ⟨s₁, s₂, hbus, hrx, hresp⟩ := takes_of_events hrun
  rw [hresp.resp_frame] at hopen
  cases hw : c.rx with
  | none =>
    rw [hw] at hrx
    cases hrx
    rw [afterCycle_rx_of_none _ hw]
    exact h.openIsInDelivery (hbus.bus_frame.1 ▸ hopen)
  | some w =>
    rw [hw] at hrx
    rw [afterCycle_rx_of_some _ hw]
    obtain ⟨t, ht, -⟩ := exec_inputs (decode (.rx w)) s₁
    cases (execAll_cons ht []).symm.trans hrx
    exact dutiful_rx_open (isRxEvent_decode_rx w) (hdrx w hw) ht hopen

/-- The word a transport has begun with stays presented until an edge with its response, or with rst_n = 0. -/
theorem AgentsOk.edge {y z : System} (h : AgentsOk y) (htx : TransmitOk y.machine.tx) {c : Cycle}
    (hmove : y.move (.edge c) = some z) : AgentsOk z := by
  obtain ⟨hduty, hrun, hagents⟩ := move_edge_eq_some_iff.mp hmove
  have hrecord := afterCycle_tx y.agents c
  rw [← hagents] at hrecord
  cases hr : c.rstN with
  | false =>
    rw [runCycle_reset hr] at hrun
    refine agentsOk_of_idle (hrecord.trans (if_neg (by simp [hr]))) fun hopen => ?_
    rw [← Host.Outcome.next.inj hrun] at hopen
    cases hopen
  | true =>
    rw [runCycle_events hr] at hrun
    have hrx := hagents ▸ h.edge_rx hduty hrun
    by_cases hstays : c.resp = none ∧ y.agents.tx ≠ .idle
    · obtain ⟨hnone, hne⟩ := hstays
      obtain ⟨s₁, s₂, hbus, hrx', hresp⟩ := takes_of_events hrun
      rw [hnone] at hresp
      cases hresp
      exact h.of_sameTx (hrecord.trans (if_pos ⟨hr, hnone⟩))
        (hrx'.rx_frame.trans (hbus.bus_frame.2 (h.busy htx hne))) hrx
    · refine agentsOk_of_idle ?_ hrx
      rw [hrecord, ite_eq_right_iff]
      exact fun hresp => by_contra fun hne => hstays ⟨hresp.2, hne⟩

/-! ## A batch delivered -/

theorem run_cons {y z : System} {m : Move} (h : y.move m = some z) (ms : List Move) :
    System.run (m :: ms) y = System.run ms z := by
  simp only [System.run, h]

theorem events_cycleOf (w : PortWord) : (cycleOf w).events = [decode w] := by cases w <;> rfl

/-- An edge with one word whose event keeps its duty is a move, and runs that event. -/
theorem move_cycleOf {y : System} {w : PortWord} {i : Instr} (hw : decode w = i)
    (hduty : keepsDuty y.machine y.agents i = true) {t : State} (ht : exec i y.machine = .next t) :
    y.move (.edge (cycleOf w)) = some { machine := t, agents := y.agents.sent i } := by
  subst hw
  refine move_edge_eq_some_iff.mpr ⟨?_, ?_, ?_⟩
  · simpa [events_cycleOf] using hduty
  · rw [runCycle_events (cycleOf_rstN w), events_cycleOf]
    exact execAll_cons ht []
  · simp only [Agents.afterCycle, cycleOf_rstN, events_cycleOf]
    rfl

/-- An event that breaks its duty makes its edge no move. -/
theorem move_edge_eq_none {y : System} {c : Cycle} (h : c.events.all (keepsDuty y.machine y.agents) ≠ true) :
    y.move (.edge c) = none :=
  Option.eq_none_iff_forall_ne_some.mpr fun _ hz => h (move_edge_eq_some_iff.mp hz).1

/-- The edges of a batch and its END, from the state that has the batch in delivery. -/
theorem run_batch (ps : List PulsePair) {y : System} (h : y.agents.rx = .batch ps) : ∃ z,
    System.run ((ps.map fun p => .edge (cycleOf (rxWord 0 (wordOfPair p)))) ++ [.edge (cycleOf (rxWord 1 0))]) y =
        some z ∧ z.agents = { y.agents with rx := .idle } ∧
      execAll (ps.map .rxPair ++ [.rxEnd 0]) y.machine = .next z.machine := by
  induction ps generalizing y with
  | nil =>
    obtain ⟨t, ht, -⟩ := exec_inputs (.rxEnd 0) y.machine
    have hmove := move_cycleOf (decode_encode (i := .rxEnd 0) rfl) (beq_iff_eq.mpr h) ht
    exact ⟨_, run_cons hmove [], rfl, execAll_cons ht []⟩
  | cons p ps ih =>
    obtain ⟨t, ht, -⟩ := exec_inputs (.rxPair p) y.machine
    have hduty : keepsDuty y.machine y.agents (.rxPair p) = true := by simp [keepsDuty, h, RxTransport.due]
    have hmove := move_cycleOf (decode_encode (i := .rxPair p) rfl) hduty ht
    obtain ⟨z, hrun, hagents, hexec⟩ := ih (y := ⟨t, y.agents.sent (.rxPair p)⟩) (congrArg RxTransport.sentPair h)
    exact ⟨z, (run_cons hmove _).trans hrun, hagents, (execAll_cons ht _).trans hexec⟩

end Sys2Proof.Machine

open Sys2Proof Sys2Proof.Machine

/-- Settles O59: between the edges each move's own condition keeps the records in step, and at an edge the duties do. -/
theorem dutifulMovesKeepAgentsOk : Obligations.DutifulMovesKeepAgentsOk := by
  refine ⟨agentsOk_start, fun y z m htx h hmove => ?_⟩
  cases m with
  | receive ps =>
    obtain ⟨-, rfl⟩ := move_receive_eq_some hmove
    exact { h with openIsInDelivery := fun _ => ⟨ps, rfl⟩ }
  | timeOut =>
    obtain ⟨hidle, rfl⟩ := move_timeOut_eq_some hmove
    refine { h with openIsInDelivery := fun hopen => ?_ }
    obtain ⟨ps, hps⟩ := h.openIsInDelivery hopen
    cases hidle.symm.trans hps
  | transmit l d =>
    obtain ⟨u, hu, rfl⟩ := move_transmit_eq_some hmove
    exact h.transmit hu
  | transmitFailure =>
    obtain ⟨hvalid, rfl⟩ := move_transmitFailure_eq_some hmove
    exact { h with onTheAirIsPresented := nofun, failureIsOfPresented := fun _ => hvalid }
  | edge c => exact h.edge htx hmove

/-- Settles O53: the causes of the three errors are breaches of duty, and a DONE keeps its duty only for a word
presented and on the air. -/
theorem dutiesKeptNoProtocolError : Obligations.DutiesKeptNoProtocolError := by
  refine ⟨fun i s t a hvalid hduty h => ?_, fun y z m hvalid hmove => (move_noProtocolError hvalid hmove).newly_eq_zero,
    fun y c hresp hno => ?_⟩
  · by_cases hw : ∃ v, i = .wrErr v
    · exact .inr hw
    · have hnone := exec_noProtocolError h fun _ => dutiful_cause hvalid hduty fun _ => rfl
      exact .inl (hnone.masked_eq ((onlyHostClearsErrAndIntRaw i s t h).1 (not_exists.mp hw)))
  · refine move_edge_eq_none fun hduty => ?_
    have hdone : keepsDuty y.machine y.agents .txDone = true := ((events_all_iff c _).mp hduty).2.2 0 hresp
    obtain ⟨hvalid, hsent⟩ := Bool.and_eq_true_iff.mp hdone
    rcases hno with hno | hno
    · rw [hno] at hvalid; cases hvalid
    · rw [hno] at hsent; cases hsent

/-- Settles O60: each pair of the batch is due when its edge comes, and END when none is left. -/
theorem batchIsOneCapture : Obligations.BatchIsOneCapture := by
  refine ⟨fun ps y hidle => ?_, fun ps d y hbatch => ?_⟩
  · obtain ⟨z, hrun, hagents, hexec⟩ := run_batch ps (y := { y with agents := { y.agents with rx := .batch ps } }) rfl
    refine ⟨z, (run_cons (move_receive_of_idle hidle ps) _).trans hrun, hagents.trans ?_, hexec⟩
    rw [← hidle]
  · refine move_edge_eq_none ?_
    rw [events_cycleOf, show decode (rxWord 2 d) = .rxNodata d from decode_encode (i := .rxNodata d) rfl]
    simp [keepsDuty, hbatch]

end

section
/-! Reset: the step over an edge with rst_n = 0, and the reset table (70_reset_and_hazards.md R260, R261). -/

namespace Sys2Proof.Machine

/-- An edge with rst_n = 0 holds the block in reset, whatever the edge carries. -/
theorem step_inReset {s : State} {c : Cycle} {rest : List Cycle} (h : s.inputs = c :: rest) (hr : c.rstN = false) :
    step s = .next (heldInReset rest) := by simp [step, h, hr]

theorem irq_eq_false {s : State} (h : s.intRaw = 0) : irq s = false := by simp [irq, h]

end Sys2Proof.Machine

open Sys2Proof Sys2Proof.Machine

/-- Settles O11: the step answers the state held in reset, whose elements are those of the reset table; no event is
pending in INT_RAW, so irq is low. -/
theorem resetHoldsEveryElement : Obligations.ResetHoldsEveryElement := by
  intro s c rest h hr
  have hirq : irq (heldInReset rest) = false := irq_eq_false rfl
  refine ⟨heldInReset rest, step_inReset h hr, ?_⟩
  simpa [heldInReset, State.reset, RxState.reset, TxState.reset, Snapshot.reset, DurPair.reset] using hirq

/-- Settles O54: each part of the invariant holds at reset. -/
theorem resetSatisfiesInvariants : Obligations.ResetSatisfiesInvariants where
  registers := registersOk_reset
  receive := receiveOk_reset
  transmit := transmitOk_reset
  results := resultOk_reset

end
